-- ==== Sys2Proof/Word.lean ====
section
/-! DEFINITION. The number types of the PL-8: bytes and counts that wrap are bit vectors of the manual's width (R187, section 4 of the scope file); a channel and a group position are finite indices. -/

namespace Sys2Proof

/-- One byte of the line or of the host port. -/
abbrev Byte := BitVec 8

/-- A field of two bytes (R187). -/
abbrev Word16 := BitVec 16

/-- A cycle number: a 32-bit count that wraps (section 4, Cycle arithmetic). -/
abbrev Cycle := BitVec 32

/-- A serial, 0 to 1023 (R41, R85). -/
abbrev Serial := BitVec 10

/-- A station number, 0 to 31. -/
abbrev Station := BitVec 5

/-- A local channel, 0 to 7 (R65). -/
abbrev Channel := Fin 8

/-- A position within a group, 0 to 3 (R43). -/
abbrev Position := Fin 4

end Sys2Proof
end

