-- ==== Sys2Proof/Syntax.lean ====
section
/-! DEFINITION. The commands of the PL-8: one constructor per row of spec/opcode_table.json. A row of the host port is the SEL rise that ends a transaction and carries what was clocked in; a row of the line or the timer is that event and carries what the line held. -/

namespace Sys2Proof

/-- The level of an input pin. -/
inductive Level where
  | low | high
  deriving DecidableEq, Repr

/-- The two trigger inputs (R182). -/
inductive TrigInput where
  | trig0 | trig1
  deriving DecidableEq, Repr

/-- The commands. In the host-port rows `rest` holds the whole bytes clocked in after the command code and `tail` the
bits of the unfinished byte when SEL rises (R160). -/
inductive Instr where
  /-- The power-on detector begins to hold the part (R141). -/
  | powerOnReset
  /-- RESET_N falls (R141). -/
  | pinReset
  /-- The last source releases the part; the levels of TRIG0, TRIG1 and whether SEL is low at that moment (R141, R162, R182). -/
  | resetReleased (trig0 trig1 : Level) (selLow : Bool)
  /-- SEL falls (R160). -/
  | transactionOpen
  /-- SEL rises with no whole byte clocked in (R161). -/
  | emptyTransaction (tail : List Bool)
  /-- SEL rises; the first byte is not a command code (R161). -/
  | unknownCommand (code : Byte) (rest : List Byte) (tail : List Bool)
  | nop (rest : List Byte) (tail : List Bool)
  | getStatus (rest : List Byte) (tail : List Bool)
  | configure (rest : List Byte) (tail : List Bool)
  | start (rest : List Byte) (tail : List Bool)
  | leave (rest : List Byte) (tail : List Bool)
  | join (rest : List Byte) (tail : List Bool)
  /-- The RESET command; the levels of TRIG0 and TRIG1 when the reset ends, which is at the SEL rise (R169, R182). -/
  | reset (rest : List Byte) (tail : List Bool) (trig0 trig1 : Level)
  | submitCue (rest : List Byte) (tail : List Bool)
  | cancelCue (rest : List Byte) (tail : List Bool)
  | readEvents (rest : List Byte) (tail : List Bool)
  | readSlots (rest : List Byte) (tail : List Bool)
  | readRoster (rest : List Byte) (tail : List Bool)
  | readQueue (rest : List Byte) (tail : List Bool)
  | readOutbox (rest : List Byte) (tail : List Bool)
  | readChannel (rest : List Byte) (tail : List Bool)
  | readCounters (rest : List Byte) (tail : List Bool)
  | driveChannel (rest : List Byte) (tail : List Bool)
  | bindTrigger (rest : List Byte) (tail : List Bool)
  | unbindTrigger (rest : List Byte) (tail : List Bool)
  /-- An input has held the level opposite to its filtered level for 2 µs (R182). -/
  | triggerEdge (input : TrigInput)
  /-- A PWM period starts (R80). -/
  | pwmPeriodStart
  /-- The listen window runs out (R16). -/
  | listenWindowExpiry
  /-- A falling edge in the opening window, or the end of the window (R4). -/
  | openingBegins
  /-- A window edge first taken as a byte start has run 10 bit times (R129). -/
  | deferredOpeningEdge
  /-- The end of the participant's 12 bit times of pulse (R5). -/
  | openingPulseRelease
  /-- Recessive read while the opening pulse is driven (R130). -/
  | noEcho
  /-- A dominant run of `run` bit times ended in recessive; `inWindow` says that its falling edge is the one of the
  opening this station takes part in (R128, R13). -/
  | openingPulse (run : Nat) (inWindow : Bool)
  /-- The number field has been read: the 32 bits as they stood on the line, and whether a dominant data bit this
  station sent was read recessive (R6, R7). -/
  | numberFieldEnd (read : BitVec 32) (mismatch : Bool)
  /-- The shape byte's stop bit has been read; the byte as read (R8, R9). -/
  | openingEnds (shape : Byte)
  /-- The next slot begins (R3). -/
  | slotBegins
  /-- The slot in progress ends; `late` holds the bytes read so far of a frame still being received (R3, R133). -/
  | slotEnds (late : Option (List Byte))
  /-- The own slot frame completes (R117). -/
  | frameCompletes
  /-- The own slot frame ends in a bit error (R118). -/
  | bitError
  /-- The own slot frame loses the header arbitration (R119). -/
  | headerArbitrationLost
  /-- The own claim frame loses arbitration; `read` holds the whole bytes on the line before the loss that LC has not read
  bit by bit (R116, R132). -/
  | claimArbitrationLost (read : List Byte)
  /-- The own claim frame ends in a bit error (R116). -/
  | claimBitError
  /-- The own claim frame completes (R116). -/
  | claimCompletes
  /-- A received frame ends: its bytes in order, and whether it ended early at a framing error (R133, R134). -/
  | frameReceived (bytes : List Byte) (framingError : Bool)
  /-- A frame is still unfinished at the end of the guard after its frame region (R133). -/
  | frameCutOff
  /-- The next byte's start edge is missing (R124). -/
  | byteGap
  /-- A byte that belongs to no reception record (R132). -/
  | strayTraffic
  /-- A dominant run reaches 40 bit times (R128). -/
  | stuckLine
  /-- The recessive run reaches 64 bit times in LINE_FAULT (R131). -/
  | lineRestored
  /-- SEL rises at the end of an IGNORED transaction (R162). -/
  | ignoredTransactionEnd (bytes : List Byte) (tail : List Bool)
  /-- A falling edge on the line in LINE_FAULT (R131). -/
  | fallingEdgeInLineFault
  /-- A recessive data bit of the number field read dominant (R6). -/
  | numberFieldArbitrationLoss
  /-- Bad byte framing in the number field or the shape byte (R12, R14, R15). -/
  | openingFramingError
  deriving DecidableEq, Repr

end Sys2Proof
end

