-- ==== Sys2Proof/Decode.lean ====
section
/-! DEFINITION. The command a word spells by the table's bits. No row of spec/opcode_table.json gives bits ("fields" is empty in every row and none has "fixed"), so no word spells a command. -/

namespace Sys2Proof

/-- The command that `nbits` bits of `w` spell by the opcode table: none, since the table gives no row any bits.
(The bytes a command has on the host port are read in Machine/Operands.lean.) -/
def decodeTableWord (_nbits _w : Nat) : Option Instr := none

end Sys2Proof
end

