-- ==== Sys2Proof/Config.lean ====
section
/-! DEFINITION. What the manual leaves to the outside or leaves open, as constants without a body: nothing can be proved of their values. -/

namespace Sys2Proof.Config

/-- The level LC reads from the line at the n-th bit time that passes with no command waiting: true is dominant.
The line is driven by the other stations too, so the level is a FREE VALUE (log entry 4). -/
opaque lineDominant : Nat → Bool

/-- R177: records that different blocks offer on separate causes may arrive in either order. At the n-th such choice,
whether the next record is the first block's: a FREE VALUE (log entry 6). -/
opaque firstBlockNext : Nat → Bool

end Sys2Proof.Config
end

