-- ==== Sys2Proof/Machine/State.lean ====
section
/-! DEFINITION. Everything the manual gives the station as state, block by block (scope section 3), as plain data, with the value after reset of each block and of the whole (R142). -/

namespace Sys2Proof.Machine

/-! ## Names shared by the blocks -/

/-- The station states (R140). -/
inductive StationState where
  | config | listening | learning | quiet | claiming | active | leaving | lineFault | halted
  deriving DecidableEq, Repr

/-- The two station roles. -/
inductive Role where
  | talker | listener
  deriving DecidableEq, Repr

/-- Why the part was last reset (R143). -/
inductive StartReason where
  | powerOn | pin | command
  deriving DecidableEq, Repr

/-- Why the station stands in LINE_FAULT or HALTED (R140). -/
inductive FaultReason where
  | stuck | noEcho | shape | twin
  deriving DecidableEq, Repr

/-- The state-change reasons of R156. -/
inductive Reason where
  | start | adopted | selfOpened | learned | slotsFull | slotShort | leave | left | join | stray | backward
  | stuck | noEcho | restored | shape | twin
  deriving DecidableEq, Repr

/-- S, the slots of a cycle (scope section 3.2). -/
inductive SlotCount where
  | s8 | s16 | s32
  deriving DecidableEq, Repr

/-- P, the item bytes of a slot frame (scope section 3.2). -/
inductive Payload where
  | p24 | p48 | p96
  deriving DecidableEq, Repr

/-! ## Cues -/

/-- An action with the fields it uses (R41, R70 to R75); the others are absent. -/
inductive Action where
  | set (value : Byte)
  | ramp (target length : Byte)
  | pulse (onLevel onLength offLength count : Byte)
  | release
  deriving DecidableEq, Repr

/-- A cue id (R41). -/
structure CueId where
  originator : Station
  serial : Serial
  deriving DecidableEq, Repr

/-- The contents of a published cue (R83). -/
structure CueContents where
  group : Byte
  position : Position
  action : Action
  dueSlot : Nat
  replace : Bool
  deriving DecidableEq, Repr

/-- The contents with their lead: what SUBMIT_CUE and a trigger template carry (R86, R182). -/
structure CueTemplate where
  contents : CueContents
  lead : Nat
  deriving DecidableEq, Repr

/-- A cue as it is offered to a cue queue, from the line or from the own outbox (R46, R56). -/
structure CueItem where
  id : CueId
  retry : Bool
  lead : Nat
  contents : CueContents
  deriving DecidableEq, Repr

/-- A record of the cue queue (R41). -/
structure CueRecord where
  id : CueId
  group : Byte
  position : Position
  channel : Channel
  action : Action
  dueCycle : Cycle
  dueSlot : Nat
  replace : Bool
  arrival : Word16
  deriving DecidableEq, Repr

/-- The verdicts of R55. -/
inductive Verdict where
  | accepted | notMine | duplicate | queueFull | cancelled | tooLate | unknown
  deriving DecidableEq, Repr

/-- The class of a verdict, and the kind of an outbox entry (R55, R83). -/
inductive CueKind where
  | cue | cancel
  deriving DecidableEq, Repr

/-- Why an id was retired (R45). -/
inductive RetireReason where
  | fired | cancelled | superseded | skipped | cancelFirst
  deriving DecidableEq, Repr

/-- An entry of the retired list (R45). -/
structure Retired where
  id : CueId
  reason : RetireReason
  deriving DecidableEq, Repr

/-- A subscription: a group and the channel of each of its four positions (R43). -/
structure Subscription where
  group : Byte
  pos0 : Option Channel
  pos1 : Option Channel
  pos2 : Option Channel
  pos3 : Option Channel
  deriving DecidableEq, Repr

/-! ## Channels -/

/-- One value for each of the eight channels. -/
structure PerChannel (α : Type) where
  c0 : α
  c1 : α
  c2 : α
  c3 : α
  c4 : α
  c5 : α
  c6 : α
  c7 : α
  deriving DecidableEq, Repr

/-- The phase of a pulse train (R65). -/
inductive Phase where
  | on | off
  deriving DecidableEq, Repr

/-- The running part of a channel record (R65), with the fields of its state alone.  The level of IDLE is 0, that of a
PULSE is its on level in phase ON and 0 in phase OFF (R73, R74); in RAMP it is held beside the ramp's fields. -/
inductive ChanState where
  | idle
  | hold (level : Byte)
  | ramp (level start target length step : Byte)
  | pulse (onLevel onLength offLength periodsLeft : Byte) (phase : Phase) (phaseLeft : Byte)
  deriving DecidableEq, Repr

/-- A channel's polarity (R66). -/
inductive Polarity where
  | activeHigh | activeLow
  deriving DecidableEq, Repr

/-- A channel's fault policy (R66). -/
inductive FaultPolicy where
  | hold | safe
  deriving DecidableEq, Repr

/-- The configuration part of one channel (R66). -/
structure ChanSettings where
  polarity : Polarity
  policy : FaultPolicy
  safeLevel : Byte
  deriving DecidableEq, Repr

/-- What an output pin shows for the PWM period in progress (R80, R81). -/
structure OutputLatch where
  level : Byte
  polarity : Polarity
  deriving DecidableEq, Repr

/-- CG: the channel records, their configuration part and the output stage. -/
structure ChannelGenerators where
  channels : PerChannel ChanState
  settings : PerChannel ChanSettings
  rate : Fin 3
  outputs : PerChannel OutputLatch
  outputRate : Fin 3
  deriving DecidableEq, Repr

/-! ## Configuration image -/

/-- The configuration image (R140, R166). -/
structure Image where
  station : Station
  role : Role
  bitRate : Fin 4
  slots : SlotCount
  payload : Payload
  wanted : Nat
  silenceLimit : Nat
  retries : Nat
  window : Nat
  watermark : Nat
  urgent : BitVec 24
  reportFiring : Bool
  pwmRate : Fin 3
  channels : PerChannel ChanSettings
  subscriptions : List Subscription
  deriving DecidableEq, Repr

/-! ## Station controller -/

/-- SC (R140). The configuration is VALID when there is an image; role is the image's. -/
structure StationController where
  state : StationState
  image : Option Image
  talkIntent : Bool
  startReason : StartReason
  faultReason : Option FaultReason
  deriving DecidableEq, Repr

/-- Which reset sources hold the part (R141). -/
structure ResetHold where
  powerOn : Bool
  pin : Bool
  deriving DecidableEq, Repr

/-! ## Cycle timer -/

inductive TimerPhase where
  | stopped | waiting | opening | slots
  deriving DecidableEq, Repr

inductive CountHistory where
  | unsettled | held
  deriving DecidableEq, Repr

/-- NONE, OBSERVER, PARTICIPANT (section 1.2). -/
inductive OpeningRole where
  | idle | observer | participant
  deriving DecidableEq, Repr

/-- Where an opening in progress stands: the pulse being driven, the gap and number field, the shape byte (section 1.1). -/
inductive OpeningStage where
  | pulse | number | shape
  deriving DecidableEq, Repr

/-- What CT has found in the opening in progress: whether this station has lost the number field (R6), which fields are
damaged (R12), and, from the end of the number field, the settled number, the slip amount and the backward mark (R7). -/
structure Opening where
  stage : OpeningStage
  lost : Bool
  numberDamaged : Bool
  shapeDamaged : Bool
  number : Cycle
  slip : Cycle
  backward : Bool
  deriving DecidableEq, Repr

/-- CT (section 1.2, R2). -/
structure CycleTimer where
  phase : TimerPhase
  cycle : Cycle
  history : CountHistory
  slotIndex : Option Nat
  position : Option Nat
  role : OpeningRole
  proposal : Option Cycle
  listenWindow : Option Nat
  opening : Option Opening
  deriving DecidableEq, Repr

/-! ## Slot table and roster -/

/-- The view of one slot (R19): owner, claim cycle and silence stand where the state has them. -/
inductive SlotView where
  | free
  | claimed (owner : Station) (claimCycle : Cycle)
  | held (owner : Station) (silence : Nat)
  deriving DecidableEq, Repr

/-- A slot entry with the failure count FB keeps for an own entry (R19, R106); the count is 0 for any other entry. -/
structure SlotEntry where
  view : SlotView
  failures : Nat
  deriving DecidableEq, Repr

/-- A roster record (R35). Its held-slot list is read from the slot table. -/
structure Peer where
  station : Station
  joined : Cycle
  lastHeard : Cycle
  deriving DecidableEq, Repr

/-- ST: entry i is that of slot i + 1 (R19, R22, R35). -/
structure SlotTable where
  entries : List SlotEntry
  roster : List Peer
  reportArmed : Bool
  deriving DecidableEq, Repr

/-- What the frame builder has reported of this station's own frame in the slot in progress (R20, R117 to R119, R116). -/
inductive OwnOutcome where
  | silent
  | completed (released : Bool)
  | claimCompleted (slot : Nat)
  | bitError
  | arbitrationLost
  deriving DecidableEq, Repr

/-- LC's finding on a received frame (R134): a valid claim frame gives the requested slot and the claimer as sent. -/
inductive Finding where
  | invalid
  | claim (slot claimer : Byte)
  | slotFrame (sender : Station)
  deriving DecidableEq, Repr

/-- The reports ST holds for the slot in progress until it judges it (R3, R20, R28, R133). `ended` is set when the
slot's end has passed with a frame still being received, `swallow` after an item length above P (R133), and `early`
when the next slot's frame has begun and ended in the guard before it (R132): it is then invalid. -/
structure SlotReport where
  own : OwnOutcome
  finding : Option Finding
  releases : List Nat
  ended : Bool
  swallow : Bool
  judged : Bool
  early : Bool
  deriving DecidableEq, Repr

/-! ## Cue queue -/

/-- CQ (R42, R43, R45). -/
structure CueQueue where
  records : List CueRecord
  retired : List Retired
  insertions : Word16
  subscriptions : List Subscription
  deriving DecidableEq, Repr

/-! ## Outbox -/

inductive OutKind where
  | cue (template : CueTemplate) (withdrawPending : Bool)
  | cancel
  deriving DecidableEq, Repr

inductive OutState where
  | queued | sending | sent
  deriving DecidableEq, Repr

/-- Where an entry came from (R83). -/
inductive Source where
  | host | trigger (input : TrigInput)
  deriving DecidableEq, Repr

/-- The fields an entry has from its first send (R83, R93). -/
structure SendData where
  attempts : Nat
  firstSend : Cycle
  lastSend : Cycle
  deadline : Cycle
  expected : List Station
  answers : List (Station × Verdict)
  departed : Nat
  deriving DecidableEq, Repr

/-- An outbox entry (R83). Attempts is 0 while there is no send data; the due position follows from the first send. -/
structure OutEntry where
  serial : Serial
  kind : OutKind
  state : OutState
  source : Source
  send : Option SendData
  selfVerdict : Option Verdict
  deriving DecidableEq, Repr

/-- The four ways an entry closes (R102). -/
inductive Outcome where
  | complete | partialAnswers | withdrawn | abandoned
  deriving DecidableEq, Repr

/-- OB (R84, R85). -/
structure Outbox where
  entries : List OutEntry
  counter : Serial
  deriving DecidableEq, Repr

/-! ## Frame builder -/

/-- Whether a staged verdict is in the frame in transmission, and whether it was replaced while there (R111, R113). -/
inductive Flight where
  | waiting | inFlight | replaced
  deriving DecidableEq, Repr

/-- An entry of the ack staging list (R113); its class is its verdict's. -/
structure Staged where
  id : CueId
  verdict : Verdict
  flight : Flight
  deriving DecidableEq, Repr

/-- An item of a frame being sent (R109, R110). -/
inductive TxItem where
  | release (slot : Nat)
  | ack (id : CueId) (verdict : Verdict)
  | cancel (serial : Serial)
  | cue (serial : Serial) (retry : Bool) (lead : Nat) (contents : CueContents)
  deriving DecidableEq, Repr

inductive TxKind where
  | claim (requested : Nat)
  | slot (slot : Nat)
  deriving DecidableEq, Repr

/-- The frame in transmission (R106, R108, R115). -/
structure TxFrame where
  kind : TxKind
  cycleCheck : Byte
  items : List TxItem
  deriving DecidableEq, Repr

/-- FB (R106). -/
structure FrameBuilder where
  staging : List Staged
  transmission : Option TxFrame
  deriving DecidableEq, Repr

/-! ## Line controller -/

inductive Drive where
  | released | driving
  deriving DecidableEq, Repr

inductive Sending where
  | nothing | opening | claim | slot
  deriving DecidableEq, Repr

inductive Arbitration where
  | outside | inside | lost
  deriving DecidableEq, Repr

/-- The reception record (R123). -/
structure Reception where
  slot : Nat
  bytes : List Byte
  expected : Option Nat
  framing : Bool
  deriving DecidableEq, Repr

/-- LC (R123). `reading` holds the levels sampled so far of the byte being read, true dominant (R124). `overheard` holds
what LC reads on the line while this station sends: the bytes since the first start edge in the slot's start tolerance,
with which a reception record opens at an arbitration loss (R132). -/
structure LineController where
  drive : Drive
  sending : Sending
  arbitration : Arbitration
  heldMismatch : Bool
  crc : Option Word16
  reception : Option Reception
  dominantRun : Nat
  recessiveRun : Nat
  reading : Option (List Bool)
  overheard : Option Reception
  deriving DecidableEq, Repr

/-! ## Host port -/

/-- The statuses of R163. -/
inductive Status where
  | ok | withdrawn | cancelQueued | wrongState | badConfig | notConfigured | outboxFull | notTalking | notTalker
  | badCue | badSerial | badIndex | noCycles | short | unknownCommand
  deriving DecidableEq, Repr

/-- A response (R189). -/
structure Response where
  sequence : BitVec 4
  code : Byte
  status : Status
  data : List Byte
  deriving DecidableEq, Repr

inductive Transaction where
  | idle | opened | ignored
  deriving DecidableEq, Repr

/-- HP's command interface (R159). `shiftedOut` is what SDO presented, bit by bit, in the transaction that ended last. -/
structure HostPort where
  transaction : Transaction
  input : List Byte
  inputTail : List Bool
  outByte : Nat
  outBit : Nat
  response : Response
  sequence : BitVec 4
  shiftedOut : List Bool
  deriving DecidableEq, Repr

/-! ## Events and counters -/

inductive AbandonCause where
  | lineFault | halted | resync
  deriving DecidableEq, Repr

inductive StrayCause where
  | outsideWindow | backward
  deriving DecidableEq, Repr

/-- Why a slot or a peer was lost (R33, R39). -/
inductive LossReason where
  | lapsed | displaced | released
  deriving DecidableEq, Repr

/-- The edges an input can show (R182). -/
inductive Edge where
  | rising | falling
  deriving DecidableEq, Repr

/-- The edges a binding can name (R182). -/
inductive EdgeCode where
  | rising | falling | both
  deriving DecidableEq, Repr

inductive DropReason where
  | notTalking | pending | badTemplate | outboxFull
  deriving DecidableEq, Repr

/-- What a COVERAGE record carries (R102). -/
structure Coverage where
  kind : CueKind
  serial : Serial
  outcome : Outcome
  expected : Nat
  counts : List Nat
  departed : Nat
  selfVerdict : Option Verdict
  missing : List Station
  deriving DecidableEq, Repr

/-- The 17 kinds of event record with what each carries (section 10.1). -/
inductive EventRecord where
  | stateChanged (before after : StationState) (reason : Reason) (cycle : Cycle) (held : Nat)
  | peerJoined (station : Station) (slot : Nat) (cycle : Cycle)
  | peerLost (station : Station) (slot : Nat) (reason : LossReason) (cycle lastHeard : Cycle)
  | slotGained (slot : Nat) (cycle : Cycle) (held : Nat)
  | slotLost (slot : Nat) (reason : LossReason) (cycle : Cycle) (held : Nat)
  | noFreeSlot (cycle : Cycle) (held claimed : Nat)
  | cycleSlip (cycle slip : Cycle) (skipped : Nat)
  | strayOpening (cause : StrayCause) (before : Cycle) (winning : Option Cycle)
  | coverage (content : Coverage)
  | cueFired (id : CueId) (group : Byte) (position : Position) (channel : Channel) (action : Action)
      (dueCycle : Cycle) (dueSlot : Nat) (level : Byte)
  | cueRefused (id : CueId) (group : Byte) (position : Position) (dueCycle : Cycle) (dueSlot : Nat) (retry : Bool)
  | cuesAbandoned (count : Nat) (cause : AbandonCause) (cycle : Cycle)
  | triggerTaken (input : TrigInput) (edge : Edge) (serial : Serial) (cycle : Cycle)
  | triggerDropped (input : TrigInput) (edge : Edge) (reason : DropReason) (cycle : Cycle)
  | lineFault (reason : FaultReason) (before : StationState) (cycle : Cycle) (repeated : Bool)
  | lineRestored (cycle : Cycle) (history : CountHistory)
  | halted (reason : FaultReason) (before : StationState) (cycle : Cycle)
  deriving DecidableEq, Repr

/-- HP's event queue, with the ATN output: `atn` is true while ATN is asserted (R176, R179). -/
structure EventQueue where
  records : List EventRecord
  lost : Nat
  watermark : Nat
  urgent : BitVec 24
  reportFiring : Bool
  atn : Bool
  deriving DecidableEq, Repr

/-- The eight error counters, in the order of R181's table. -/
structure Counters where
  crcErrors : Nat
  formatErrors : Nat
  cycleCheck : Nat
  acksDropped : Nat
  strayAcks : Nat
  damagedOpenings : Nat
  ownFailures : Nat
  claimLosses : Nat
  deriving DecidableEq, Repr

/-- What a trigger input is bound to (R182). -/
structure Binding where
  edge : EdgeCode
  template : CueTemplate
  deriving DecidableEq, Repr

/-- A trigger input (R182). -/
structure TriggerState where
  level : Level
  binding : Option Binding
  lastSerial : Option Serial
  deriving DecidableEq, Repr

/-! ## The station -/

/-- The whole state. `ticks` and `choices` are the model's own: they number the uses of the two free values of Config.
`pending` holds the commands that wait, first in first out. -/
structure State where
  sc : StationController
  hold : ResetHold
  ct : CycleTimer
  st : SlotTable
  slot : SlotReport
  cq : CueQueue
  cg : ChannelGenerators
  ob : Outbox
  fb : FrameBuilder
  lc : LineController
  hp : HostPort
  ev : EventQueue
  counters : Counters
  trig0 : TriggerState
  trig1 : TriggerState
  ticks : Nat
  choices : Nat
  pending : List Instr
  deriving DecidableEq, Repr

/-- No meaning of this model faults: the manual names no condition in which the station stops without a further rule
(LINE_FAULT and HALTED are station states). The type is closed and empty, so no step can raise one. -/
inductive Fault where
  deriving DecidableEq, Repr

/-- The one refusal, for a command that has no meaning yet. -/
inductive Refusal where
  /-- Raised by Machine/Dispatch.lean alone, for a row not modelled; it would be safe. No arm raises it. -/
  | notModelled (mnemonic : String)
  deriving DecidableEq, Repr

/-- What a command answers. -/
abbrev Result := Host.Outcome State Fault Refusal

/-! ## Reset values (R142) -/

/-- R2. -/
def CycleTimer.reset : CycleTimer :=
  { phase := .stopped, cycle := 0, history := .unsettled, slotIndex := none, position := none, role := .idle,
    proposal := none, listenWindow := none, opening := none }

/-- R19: no entries, an empty roster, the report ARMED. -/
def SlotTable.reset : SlotTable := { entries := [], roster := [], reportArmed := true }

/-- No slot is in progress. -/
def SlotReport.blank : SlotReport :=
  { own := .silent, finding := none, releases := [], ended := false, swallow := false, judged := false,
    early := false }

/-- R42, R43, R45. -/
def CueQueue.reset : CueQueue := { records := [], retired := [], insertions := 0, subscriptions := [] }

/-- The same value for every channel. -/
def PerChannel.all {α : Type} (a : α) : PerChannel α :=
  { c0 := a, c1 := a, c2 := a, c3 := a, c4 := a, c5 := a, c6 := a, c7 := a }

/-- R66. -/
def ChanSettings.reset : ChanSettings := { polarity := .activeHigh, policy := .hold, safeLevel := 0 }

/-- R65, R66, R80. -/
def ChannelGenerators.reset : ChannelGenerators :=
  { channels := .all .idle, settings := .all .reset, rate := 0,
    outputs := .all { level := 0, polarity := .activeHigh }, outputRate := 0 }

/-- R106. -/
def FrameBuilder.reset : FrameBuilder := { staging := [], transmission := none }

/-- R123. -/
def LineController.reset : LineController :=
  { drive := .released, sending := .nothing, arbitration := .outside, heldMismatch := false, crc := none,
    reception := none, dominantRun := 0, recessiveRun := 0, reading := none, overheard := none }

/-- R176: the default urgent mask marks COVERAGE (9), LINE_FAULT (15) and HALTED (17). -/
def EventQueue.reset : EventQueue :=
  { records := [], lost := 0, watermark := 32, urgent := 0x028200, reportFiring := false, atn := false }

/-- R181. -/
def Counters.zero : Counters :=
  { crcErrors := 0, formatErrors := 0, cycleCheck := 0, acksDropped := 0, strayAcks := 0, damagedOpenings := 0,
    ownFailures := 0, claimLosses := 0 }

/-- The machine right after a power-on reset has released it: every block at its reset value (R142), the start report in
the response buffer (R143, R162, R189), SEL high and both trigger pins low at the release (DESIGN CHOICE, log entry 2). -/
def State.reset : State :=
  { sc := { state := .config, image := none, talkIntent := false, startReason := .powerOn, faultReason := none }
    hold := { powerOn := false, pin := false }
    ct := .reset
    st := .reset
    slot := .blank
    cq := .reset
    cg := .reset
    ob := { entries := [], counter := 0 }
    fb := .reset
    lc := .reset
    hp := { transaction := .idle, input := [], inputTail := [], outByte := 0, outBit := 0,
            response := { sequence := 0, code := 0x7F, status := .ok, data := [0, 0, 0] }, sequence := 0,
            shiftedOut := [] }
    ev := .reset
    counters := .zero
    trig0 := { level := .low, binding := none, lastSerial := none }
    trig1 := { level := .low, binding := none, lastSerial := none }
    ticks := 0
    choices := 0
    pending := [] }

end Sys2Proof.Machine
end

