-- ==== Sys2Proof/Machine/Operands.lean ====
section
/-! DEFINITION. Operand forms: how numbers, codes, cue templates, configuration images, frames and items stand in bytes (Chapter 11), and the CRC (R127). -/

namespace Sys2Proof.Machine

/-! ## Numbers and maps in bytes (R187) -/

/-- A number in one byte. -/
def byte (n : Nat) : Byte := BitVec.ofNat 8 n

/-- A number in two bytes, most significant first (R187). -/
def be2 (n : Nat) : List Byte := [byte (n / 256), byte n]

/-- A cycle number, slip amount or map in four bytes, most significant first (R187). -/
def be4 (c : BitVec 32) : List Byte :=
  [c.extractLsb' 24 8, c.extractLsb' 16 8, c.extractLsb' 8 8, c.extractLsb' 0 8]

/-- Two bytes read as a number (R187). -/
def word (hi lo : Byte) : Nat := hi.toNat * 256 + lo.toNat

/-- The one-byte code of an absent field whose range stops below 255 (R187). -/
def absent : Byte := 0xFF

/-- A set of station or slot numbers as a map of 32 bits (R187). -/
def mapOf (ns : List Nat) : BitVec 32 := ns.foldl (fun m n => m ||| (1#32 <<< n)) 0#32

/-- The eight bits of a byte in the order they are sent, most significant first (R187). -/
def byteBits (b : Byte) : List Bool := (List.range 8).map fun i => b.getMsbD i

/-- The byte at place `i`, 0 past the end. -/
def byteAt (bs : List Byte) (i : Nat) : Byte := bs.getD i 0

/-! ## Codes (Chapter 11) -/

def boolCode : Bool → Byte
  | false => 0
  | true => 1

def SlotCount.toNat : SlotCount → Nat
  | .s8 => 8
  | .s16 => 16
  | .s32 => 32

def SlotCount.code : SlotCount → BitVec 2
  | .s8 => 0
  | .s16 => 1
  | .s32 => 2

def Payload.toNat : Payload → Nat
  | .p24 => 24
  | .p48 => 48
  | .p96 => 96

def Payload.code : Payload → BitVec 2
  | .p24 => 0
  | .p48 => 1
  | .p96 => 2

def StationState.code : StationState → Byte
  | .config => 0 | .listening => 1 | .learning => 2 | .quiet => 3 | .claiming => 4 | .active => 5 | .leaving => 6
  | .lineFault => 7 | .halted => 8

def Reason.code : Reason → Byte
  | .start => 0 | .adopted => 1 | .selfOpened => 2 | .learned => 3 | .slotsFull => 4 | .slotShort => 5 | .leave => 6
  | .left => 7 | .join => 8 | .stray => 9 | .backward => 10 | .stuck => 11 | .noEcho => 12 | .restored => 13
  | .shape => 14 | .twin => 15

/-- The state-change reason that a fault reason is also (R153, R155). -/
def FaultReason.toReason : FaultReason → Reason
  | .stuck => .stuck | .noEcho => .noEcho | .shape => .shape | .twin => .twin

def StartReason.code : StartReason → Byte
  | .powerOn => 0 | .pin => 1 | .command => 2

def Role.code : Role → Byte
  | .talker => 0 | .listener => 1

def Status.code : Status → Byte
  | .ok => 0 | .withdrawn => 1 | .cancelQueued => 2 | .wrongState => 3 | .badConfig => 4 | .notConfigured => 5
  | .outboxFull => 6 | .notTalking => 7 | .notTalker => 8 | .badCue => 9 | .badSerial => 10 | .badIndex => 11
  | .noCycles => 12 | .short => 13 | .unknownCommand => 14

def Verdict.code : Verdict → Byte
  | .accepted => 1 | .notMine => 2 | .duplicate => 3 | .queueFull => 4 | .cancelled => 5 | .tooLate => 6 | .unknown => 7

def Verdict.ofCode : Nat → Option Verdict
  | 1 => some .accepted | 2 => some .notMine | 3 => some .duplicate | 4 => some .queueFull | 5 => some .cancelled
  | 6 => some .tooLate | 7 => some .unknown | _ => none

/-- R55: the class a verdict belongs to. -/
def Verdict.kind : Verdict → CueKind
  | .accepted | .notMine | .duplicate | .queueFull => .cue
  | .cancelled | .tooLate | .unknown => .cancel

def Action.code : Action → Byte
  | .set _ => 1 | .ramp _ _ => 2 | .pulse _ _ _ _ => 3 | .release => 4

/-- The four bytes value, param A, param B, count of an action; those it does not use are 0 (R86, R187). -/
def Action.bytes : Action → List Byte
  | .set v => [v, 0, 0, 0]
  | .ramp t n => [t, n, 0, 0]
  | .pulse v a b m => [v, a, b, m]
  | .release => [0, 0, 0, 0]

/-- The action that a code and the four bytes name, when the code is known and the params it uses are in range
(R86, R137): param A for RAMP and PULSE, param B for PULSE. -/
def Action.ofBytes (code value paramA paramB count : Byte) : Option Action :=
  match code.toNat with
  | 1 => some (.set value)
  | 2 => if paramA = 0 then none else some (.ramp value paramA)
  | 3 => if paramA = 0 ∨ paramB = 0 then none else some (.pulse value paramA paramB count)
  | 4 => some .release
  | _ => none

def EdgeCode.ofCode : Nat → Option EdgeCode
  | 0 => some .rising | 1 => some .falling | 2 => some .both | _ => none

def TrigInput.ofCode : Nat → Option TrigInput
  | 0 => some .trig0 | 1 => some .trig1 | _ => none

def inputCode : TrigInput → Byte
  | .trig0 => 0 | .trig1 => 1

def Edge.code : Edge → Byte
  | .rising => 0 | .falling => 1

def Source.code : Source → Byte
  | .host => 0 | .trigger .trig0 => 1 | .trigger .trig1 => 2

def CueKind.code : CueKind → Byte
  | .cue => 0 | .cancel => 1

def Outcome.code : Outcome → Byte
  | .complete => 0 | .partialAnswers => 1 | .withdrawn => 2 | .abandoned => 3

def LossReason.code : LossReason → Byte
  | .lapsed => 0 | .displaced => 1 | .released => 2

def DropReason.code : DropReason → Byte
  | .notTalking => 0 | .pending => 1 | .badTemplate => 2 | .outboxFull => 3

def AbandonCause.code : AbandonCause → Byte
  | .lineFault => 0 | .halted => 1 | .resync => 2

def StrayCause.code : StrayCause → Byte
  | .outsideWindow => 0 | .backward => 1

def CountHistory.code : CountHistory → Byte
  | .unsettled => 0 | .held => 1

def Phase.code : Phase → Byte
  | .on => 0 | .off => 1

def Polarity.code : Polarity → Byte
  | .activeHigh => 0 | .activeLow => 1

def FaultPolicy.code : FaultPolicy → Byte
  | .hold => 0 | .safe => 1

def ChanState.code : ChanState → Byte
  | .idle => 0 | .hold _ => 1 | .ramp _ _ _ _ _ => 2 | .pulse _ _ _ _ _ _ => 3

/-! ## Cue templates (section 11.3, R86) -/

/-- A cue template from the eleven parameter bytes of SUBMIT_CUE, when every field checked by R86 is in range: group
1 to 255, position 0 to 3, a known action with its params, due slot below `slots`, lead 1 to 1023. -/
def CueTemplate.ofBytes (slots : Nat) (p : List Byte) : Option CueTemplate :=
  let lead := word (byteAt p 8) (byteAt p 9)
  if h : (byteAt p 1).toNat < 4 then
    match Action.ofBytes (byteAt p 2) (byteAt p 3) (byteAt p 4) (byteAt p 5) (byteAt p 6) with
    | none => none
    | some action =>
      if byteAt p 0 ≠ 0 ∧ (byteAt p 7).toNat < slots ∧ 1 ≤ lead ∧ lead ≤ 1023 then
        some { contents := { group := byteAt p 0, position := ⟨(byteAt p 1).toNat, h⟩, action := action,
                             dueSlot := (byteAt p 7).toNat, replace := (byteAt p 10).getLsbD 0 },
               lead := lead }
      else none
  else none

/-- The eleven parameter bytes of SUBMIT_CUE for a template (R189). -/
def CueTemplate.bytes (t : CueTemplate) : List Byte :=
  [t.contents.group, byte t.contents.position, t.contents.action.code] ++ t.contents.action.bytes ++
    [byte t.contents.dueSlot] ++ be2 t.lead ++ [boolCode t.contents.replace]

/-! ## CONFIGURE (R166, R167, section 11.3) -/

/-- The number of subscription entries a CONFIGURE announces: those of its count byte, none for a count above 8 or a
command that ends before it (R166). `p` holds the bytes after the code. -/
def announced (p : List Byte) : Nat :=
  match p[31]? with
  | none => 0
  | some n => if n.toNat ≤ 8 then n.toNat else 0

/-- A position byte of a subscription entry: a channel, absent, or (none) a code that is neither. -/
def mappedChannel (b : Byte) : Option (Option Channel) :=
  if h : b.toNat < 8 then some (some ⟨b.toNat, h⟩) else if b = 0xFF then some none else none

/-- One subscription entry, valid after the entries before it (R167). -/
def subscriptionOf (before : List Subscription) (p : List Byte) : Option Subscription :=
  match mappedChannel (byteAt p 1), mappedChannel (byteAt p 2), mappedChannel (byteAt p 3), mappedChannel (byteAt p 4) with
  | some a, some b, some c, some d =>
    let group := byteAt p 0
    if group = 0 then none
    else if before.any (fun e => e.group == group) then none
    else if a.isNone && b.isNone && c.isNone && d.isNone then none
    else some { group := group, pos0 := a, pos1 := b, pos2 := c, pos3 := d }
  | _, _, _, _ => none

/-- The subscription entries in order, or the index of the first invalid one (R167). -/
def subscriptionsOf : Nat → List Subscription → List Byte → Except Nat (List Subscription)
  | 0, acc, _ => .ok acc
  | n + 1, acc, p =>
    match subscriptionOf acc p with
    | none => .error acc.length
    | some e => subscriptionsOf n (acc ++ [e]) (p.drop 5)

/-- The settings of one channel from its two bytes; the settings byte's other bits are spare (R166, section 11.3). -/
def settingsOf (flags safe : Byte) : ChanSettings :=
  { polarity := if flags.getLsbD 0 then .activeLow else .activeHigh
    policy := if flags.getLsbD 1 then .safe else .hold
    safeLevel := safe }

def SlotCount.ofByte (b : Byte) : Option SlotCount :=
  match b.toNat with
  | 8 => some .s8 | 16 => some .s16 | 32 => some .s32 | _ => none

def Payload.ofByte (b : Byte) : Option Payload :=
  match b.toNat with
  | 24 => some .p24 | 48 => some .p48 | 96 => some .p96 | _ => none

def Role.ofByte (b : Byte) : Option Role :=
  match b.toNat with
  | 0 => some .talker | 1 => some .listener | _ => none

/-- A number in its range, or an error naming the field. -/
def ranged (field lo hi : Nat) (b : Byte) : Except (Nat × Byte) Nat :=
  if lo ≤ b.toNat ∧ b.toNat ≤ hi then .ok b.toNat else .error (field, absent)

/-- A coded value, or an error naming the field. -/
def coded {α : Type} (field : Nat) (v : Option α) : Except (Nat × Byte) α :=
  match v with
  | some a => .ok a
  | none => .error (field, absent)

/-- The image a CONFIGURE carries, its fields validated in the order of R166, or the number of the first invalid field
with the entry index for field 16 (R167). Field 11 is always valid, and field 14 has no invalid code. The first of the
urgent mask's three bytes is the most significant: the model's choice (log entry 34). -/
def Image.ofBytes (p : List Byte) : Except (Nat × Byte) Image :=
  (ranged 1 0 31 (byteAt p 0)).bind fun station =>
  (coded 2 (Role.ofByte (byteAt p 1))).bind fun role =>
  (ranged 3 0 3 (byteAt p 2)).bind fun rate =>
  (coded 4 (SlotCount.ofByte (byteAt p 3))).bind fun slots =>
  (coded 5 (Payload.ofByte (byteAt p 4))).bind fun payload =>
  (ranged 6 1 (min 4 (slots.toNat - 1)) (byteAt p 5)).bind fun wanted =>
  (ranged 7 2 8 (byteAt p 6)).bind fun k =>
  (ranged 8 0 3 (byteAt p 7)).bind fun r =>
  (ranged 9 2 16 (byteAt p 8)).bind fun d =>
  (ranged 10 1 32 (byteAt p 9)).bind fun watermark =>
  (ranged 12 0 1 (byteAt p 13)).bind fun firing =>
  (ranged 13 0 2 (byteAt p 14)).bind fun pwm =>
  (ranged 15 0 8 (byteAt p 31)).bind fun count =>
  match subscriptionsOf count [] (p.drop 32) with
  | .error i => .error (16, byte i)
  | .ok subs =>
    let ch := fun i => settingsOf (byteAt p (15 + 2 * i)) (byteAt p (16 + 2 * i))
    .ok { station := BitVec.ofNat 5 station, role := role, bitRate := Fin.ofNat 4 rate, slots := slots,
          payload := payload, wanted := wanted, silenceLimit := k, retries := r, window := d, watermark := watermark,
          urgent := (byteAt p 10) ++ (byteAt p 11) ++ (byteAt p 12), reportFiring := firing == 1,
          pwmRate := Fin.ofNat 3 pwm,
          channels := { c0 := ch 0, c1 := ch 1, c2 := ch 2, c3 := ch 3, c4 := ch 4, c5 := ch 5, c6 := ch 6, c7 := ch 7 },
          subscriptions := subs }

/-- The shape byte of an image: bit rate, S code, P code, two bits 0 (section 11.2). -/
def Image.shapeByte (im : Image) : Byte :=
  BitVec.ofNat 2 im.bitRate ++ im.slots.code ++ im.payload.code ++ 0#2

/-- R8, R188: the three codes of a shape byte as read equal the station's own; bits 1 and 0 are not compared. -/
def Image.shapeMatches (im : Image) (b : Byte) : Bool := b.extractLsb' 2 6 == im.shapeByte.extractLsb' 2 6

/-- The four bytes a participant sends in the number field: the complement of its proposal (R6, section 11.2). -/
def numberField (proposal : Cycle) : List Byte := be4 (~~~proposal)

/-! ## Bytes on the line (R124) -/

/-- The ten levels of a byte, true dominant: start bit, data bits with 0 sent dominant, stop bit. -/
def lineBits (b : Byte) : List Bool := true :: (byteBits b).map (fun d => !d) ++ [false]

/-- A byte as LC delivers it, with its framing mark. -/
structure ByteRead where
  value : Byte
  framing : Bool
  deriving DecidableEq, Repr

/-- The byte whose data bits were sampled at these levels. -/
def byteOfLevels (levels : List Bool) : Byte := levels.foldl (fun b d => (b <<< 1) ||| (if d then 0 else 1)) 0

/-- R124: the byte in the ten samples from a falling edge on: none when the start bit is sampled recessive; the framing
mark is set when the stop bit is sampled dominant. -/
def readByte (samples : List Bool) : Option ByteRead :=
  if samples.getD 0 false then
    some { value := byteOfLevels ((samples.drop 1).take 8), framing := samples.getD 9 false }
  else none

/-! ## The frame check (R127) -/

/-- One bit into the accumulator. -/
def crcBit (acc : Word16) (bit : Bool) : Word16 :=
  if acc.msb ^^ bit then (acc <<< 1) ^^^ 0x1021 else acc <<< 1

/-- One byte into the accumulator. -/
def crcByte (acc : Word16) (b : Byte) : Word16 := (byteBits b).foldl crcBit acc

/-- The accumulator after the bytes before the CRC. -/
def crc16 (bs : List Byte) : Word16 := bs.foldl crcByte 0xFFFF

/-- The two CRC bytes of a frame whose bytes before the CRC are `bs`. -/
def crcBytes (bs : List Byte) : List Byte := [(crc16 bs).extractLsb' 8 8, (crc16 bs).extractLsb' 0 8]

/-! ## Items on the line (section 11.2, R137) -/

/-- A well-formed item of a received frame. -/
inductive LineItem where
  | cue (serial : Serial) (retry : Bool) (lead : Nat) (contents : CueContents)
  | cancel (serial : Serial)
  | ack (originator : Station) (serial : Serial) (verdict : Verdict)
  | release (slot : Nat)
  deriving DecidableEq, Repr

/-- The bytes of an item, from its kind byte (R137). -/
def itemSize (kind : Byte) : Option Nat :=
  match kind.toNat with
  | 1 => some 12 | 2 => some 3 | 3 => some 4 | 4 => some 2 | _ => none

/-- A CUE item's fields, when those its action uses are in range (R137). -/
def cueItemOf (slots : Nat) (p : List Byte) : Option LineItem :=
  let serialWord := (byteAt p 1) ++ (byteAt p 2)
  let place := byteAt p 4
  let lead := word (byteAt p 5) (byteAt p 6)
  if h : (place.extractLsb' 4 4).toNat < 4 then
    match Action.ofBytes ((place.extractLsb' 0 4).setWidth 8) (byteAt p 8) (byteAt p 9) (byteAt p 10) (byteAt p 11) with
    | none => none
    | some action =>
      if byteAt p 3 ≠ 0 ∧ 1 ≤ lead ∧ lead ≤ 1023 ∧ (byteAt p 7).toNat < slots then
        some (.cue (serialWord.extractLsb' 0 10) (serialWord.getLsbD 15) lead
          { group := byteAt p 3, position := ⟨(place.extractLsb' 4 4).toNat, h⟩, action := action,
            dueSlot := (byteAt p 7).toNat, replace := serialWord.getLsbD 14 })
      else none
  else none

/-- The item at the head of an item area, when it is well formed (R137). -/
def itemOf (slots : Nat) (p : List Byte) : Option LineItem :=
  match (byteAt p 0).toNat with
  | 1 => if p.length < 12 then none else cueItemOf slots p
  | 2 =>
    let n := word (byteAt p 1) (byteAt p 2)
    if p.length < 3 ∨ 1023 < n then none else some (.cancel (BitVec.ofNat 10 n))
  | 3 =>
    let verdictWord := (byteAt p 2) ++ (byteAt p 3)
    if p.length < 4 ∨ 31 < (byteAt p 1).toNat then none
    else (Verdict.ofCode (verdictWord.extractLsb' 12 4).toNat).map fun v =>
      .ack (BitVec.ofNat 5 (byteAt p 1).toNat) (verdictWord.extractLsb' 0 10) v
  | 4 =>
    let r := (byteAt p 1).toNat
    if p.length < 2 ∨ r = 0 ∨ slots ≤ r then none else some (.release r)
  | _ => none

/-- R137: the well-formed items at the front of an item area, and whether parsing ended at one that is not. The first
argument bounds the number of items; an item has at least two bytes. -/
def parseItems (slots : Nat) : Nat → List Byte → List LineItem × Bool
  | 0, p => ([], !p.isEmpty)
  | n + 1, p =>
    if p.isEmpty then ([], false)
    else
      match itemOf slots p, itemSize (byteAt p 0) with
      | some item, some size =>
        let rest := parseItems slots n (p.drop size)
        (item :: rest.1, rest.2)
      | _, _ => ([], true)

/-- The bytes of an item being sent (section 11.2). -/
def TxItem.bytes : TxItem → List Byte
  | .release slot => [0x04, byte slot]
  | .ack id verdict =>
    [0x03, id.originator.setWidth 8] ++ be2 (verdict.code.toNat * 4096 + id.serial.toNat)
  | .cancel serial => [0x02] ++ be2 serial.toNat
  | .cue serial retry lead contents =>
    [0x01] ++ be2 (retry.toNat * 32768 + contents.replace.toNat * 16384 + serial.toNat) ++
      [contents.group, byte (contents.position.val * 16 + contents.action.code.toNat)] ++ be2 lead ++
      [byte contents.dueSlot] ++ contents.action.bytes

/-- The bytes that FB puts on the line for a frame, the CRC included (R108, R115, R127). -/
def TxFrame.bytes (f : TxFrame) (station : Station) : List Byte :=
  let body :=
    match f.kind with
    | .claim r => [byte r, station.setWidth 8, f.cycleCheck]
    | .slot _ =>
      let items := f.items.flatMap TxItem.bytes
      [station.setWidth 8, f.cycleCheck, byte items.length] ++ items
  body ++ crcBytes body

/-! ## Findings (R133, R134, R188) -/

/-- Why a frame is invalid: a cause of the format-error counter, or of the CRC-error counter. -/
inductive FrameFault where
  | format | crc
  deriving DecidableEq, Repr

/-- The number of bytes a reception record expects, once known (R133): 5 in slot 0, the header's item length plus 5
in the others. -/
def expectedBytes (slot : Nat) (bs : List Byte) : Option Nat :=
  if slot = 0 then some 5
  else if bs.length < 3 then none
  else some ((byteAt bs 2).toNat + 5)

/-- Whether a slot frame's item length is greater than P (R133). -/
def overlong (slot payload : Nat) (bs : List Byte) : Bool :=
  decide (slot ≠ 0 ∧ 3 ≤ bs.length ∧ payload < (byteAt bs 2).toNat)

/-- R134: the finding on a frame that stands in slot `slot`, from the bytes read and whether it ended early at a framing
error. A frame whose bytes stop short of its length has ended in a gap (R124). -/
def assess (slot slots payload : Nat) (bs : List Byte) (framingError : Bool) : Except FrameFault Finding :=
  if overlong slot payload bs then .error .format
  else
    match expectedBytes slot bs with
    | none => .error .format
    | some n =>
      if framingError ∨ bs.length < n then .error .format
      else
        let body := bs.take (n - 2)
        if (bs.drop (n - 2)).take 2 ≠ crcBytes body then .error .crc
        else if slot = 0 then
          if 31 < (byteAt bs 1).toNat ∧ 1 ≤ (byteAt bs 0).toNat ∧ (byteAt bs 0).toNat < slots then .error .format
          else .ok (.claim (byteAt bs 0) (byteAt bs 1))
        else if 31 < (byteAt bs 0).toNat then .error .format
        else .ok (.slotFrame (BitVec.ofNat 5 (byteAt bs 0).toNat))

/-- The item area of a slot frame that has been found valid. -/
def itemArea (bs : List Byte) : List Byte := (bs.drop 3).take (byteAt bs 2).toNat

end Sys2Proof.Machine
end

