-- ==== Sys2Proof/Machine/Flags.lean ====
section
/-! DEFINITION. Status flags: the event queue with ATN and the lost count, the event records in bytes, and the error counters (Chapter 10). -/

namespace Sys2Proof.Machine

/-! ## Event records (R190) -/

/-- The kind code of a record (section 11.5). -/
def EventRecord.kindCode : EventRecord → Nat
  | .stateChanged .. => 1 | .peerJoined .. => 2 | .peerLost .. => 3 | .slotGained .. => 4 | .slotLost .. => 5
  | .noFreeSlot .. => 6 | .cycleSlip .. => 7 | .strayOpening .. => 8 | .coverage .. => 9 | .cueFired .. => 10
  | .cueRefused .. => 11 | .cuesAbandoned .. => 12 | .triggerTaken .. => 13 | .triggerDropped .. => 14
  | .lineFault .. => 15 | .lineRestored .. => 16 | .halted .. => 17

/-- Bytes 1 to 15 of a record, less the zeros at its end (section 11.5). -/
def EventRecord.fields : EventRecord → List Byte
  | .stateChanged before after reason cycle held =>
    [before.code, after.code, reason.code] ++ be4 cycle ++ [byte held]
  | .peerJoined z slot cycle => [z.setWidth 8, byte slot, 0] ++ be4 cycle
  | .peerLost z slot reason cycle heard => [z.setWidth 8, byte slot, reason.code] ++ be4 cycle ++ be4 heard
  | .slotGained slot cycle held => [0, byte slot, 0] ++ be4 cycle ++ [byte held]
  | .slotLost slot reason cycle held => [0, byte slot, reason.code] ++ be4 cycle ++ [byte held]
  | .noFreeSlot cycle held claimed => [0, 0, 0] ++ be4 cycle ++ [byte held, byte claimed]
  | .cycleSlip cycle slip skipped => [0, 0, 0] ++ be4 cycle ++ be4 slip ++ [byte skipped]
  | .strayOpening cause before winning => [0, 0, cause.code] ++ be4 before ++ be4 (winning.getD 0)
  | .coverage c =>
    [c.kind.code, c.outcome.code, (c.selfVerdict.map Verdict.code).getD 0] ++ be2 c.serial.toNat ++ [byte c.expected] ++
      ((c.counts.map byte) ++ [0, 0, 0, 0]).take 4 ++ [byte c.departed] ++ be4 (mapOf (c.missing.map BitVec.toNat))
  | .cueFired id group position channel action cycle slot level =>
    [id.originator.setWidth 8] ++ be2 id.serial.toNat ++ be4 cycle ++
      [byte slot, group, byte position, byte channel, action.code, level]
  | .cueRefused id group position cycle slot retry =>
    [id.originator.setWidth 8] ++ be2 (retry.toNat * 32768 + id.serial.toNat) ++ be4 cycle ++
      [byte slot, group, byte position]
  | .cuesAbandoned count cause cycle => [byte count, 0, cause.code] ++ be4 cycle
  | .triggerTaken input edge serial cycle => [inputCode input, edge.code, 0] ++ be4 cycle ++ be2 serial.toNat
  | .triggerDropped input edge reason cycle => [inputCode input, edge.code, reason.code] ++ be4 cycle
  | .lineFault reason before cycle repeated =>
    [before.code, boolCode repeated, reason.toReason.code] ++ be4 cycle
  | .lineRestored cycle history => [history.code, 0, 0] ++ be4 cycle
  | .halted reason before cycle => [before.code, 0, reason.toReason.code] ++ be4 cycle

/-- The 16 bytes of a record (R190). -/
def EventRecord.bytes (r : EventRecord) : List Byte :=
  (byte r.kindCode :: r.fields ++ List.replicate 16 0).take 16

/-! ## The queue and ATN (R176 to R180) -/

/-- R179: the fill has reached the watermark, or a queued record is of an urgent kind. -/
def EventQueue.wantsAttention (q : EventQueue) : Bool :=
  decide (q.watermark ≤ q.records.length) || q.records.any fun r => q.urgent.getLsbD r.kindCode

/-- R179: ATN follows each evaluation at once. -/
def EventQueue.evaluate (q : EventQueue) : EventQueue := { q with atn := q.wantsAttention }

/-- R177: a record is appended while the queue holds fewer than 32, and else discarded and counted, up to 255. -/
def EventQueue.offer (q : EventQueue) (r : EventRecord) : EventQueue :=
  if q.records.length < 32 then { q with records := q.records ++ [r] }.evaluate
  else { q with lost := min 255 (q.lost + 1) }

/-- R180: the oldest `n` records leave, the lost count becomes 0, and ATN is evaluated. -/
def EventQueue.take (q : EventQueue) (n : Nat) : EventQueue :=
  { q with records := q.records.drop n, lost := 0 }.evaluate

/-- R176, R179: a CONFIGURE taken without refusal replaces watermark, mask and report-firing flag. -/
def EventQueue.configure (q : EventQueue) (im : Image) : EventQueue :=
  { q with watermark := im.watermark, urgent := im.urgent, reportFiring := im.reportFiring }.evaluate

/-- Records offered in order. -/
def EventQueue.offers (q : EventQueue) (rs : List EventRecord) : EventQueue := rs.foldl EventQueue.offer q

def State.offer (s : State) (r : EventRecord) : State := { s with ev := s.ev.offer r }

def State.offers (s : State) (rs : List EventRecord) : State := { s with ev := s.ev.offers rs }

/-- Two sequences of records merged, each in its own order, the choices being the free values from the n-th on (R177).
The first argument bounds the records merged. -/
def riffle : Nat → Nat → List EventRecord → List EventRecord → List EventRecord
  | 0, _, xs, ys => xs ++ ys
  | _ + 1, _, [], ys => ys
  | _ + 1, _, xs, [] => xs
  | fuel + 1, n, x :: xs, y :: ys =>
    if Config.firstBlockNext n then x :: riffle fuel (n + 1) xs (y :: ys)
    else y :: riffle fuel (n + 1) (x :: xs) ys

/-- R177: the records that two blocks offer on separate causes in one step, in an order the manual leaves open. -/
def State.offersUnordered (s : State) (xs ys : List EventRecord) : State :=
  if xs.isEmpty || ys.isEmpty then s.offers (xs ++ ys)
  else
    let n := xs.length + ys.length
    { s with ev := s.ev.offers (riffle n s.choices xs ys), choices := s.choices + n }

/-! ## Counters (R181) -/

/-- R181: a counter goes up by 1 and stays at 65535. -/
def countUp (n : Nat) : Nat := min 65535 (n + 1)

def State.countFormat (s : State) : State :=
  { s with counters := { s.counters with formatErrors := countUp s.counters.formatErrors } }

def State.countCrc (s : State) : State :=
  { s with counters := { s.counters with crcErrors := countUp s.counters.crcErrors } }

def State.countCycleCheck (s : State) : State :=
  { s with counters := { s.counters with cycleCheck := countUp s.counters.cycleCheck } }

def State.countAckDropped (s : State) : State :=
  { s with counters := { s.counters with acksDropped := countUp s.counters.acksDropped } }

def State.countStrayAck (s : State) : State :=
  { s with counters := { s.counters with strayAcks := countUp s.counters.strayAcks } }

def State.countDamagedOpening (s : State) : State :=
  { s with counters := { s.counters with damagedOpenings := countUp s.counters.damagedOpenings } }

def State.countOwnFailure (s : State) : State :=
  { s with counters := { s.counters with ownFailures := countUp s.counters.ownFailures } }

def State.countClaimLoss (s : State) : State :=
  { s with counters := { s.counters with claimLosses := countUp s.counters.claimLosses } }

/-- The counters in the order of R181's table, two bytes each (R189). -/
def Counters.bytes (c : Counters) : List Byte :=
  [c.crcErrors, c.formatErrors, c.cycleCheck, c.acksDropped, c.strayAcks, c.damagedOpenings, c.ownFailures,
    c.claimLosses].flatMap be2

end Sys2Proof.Machine
end

