-- ==== Sys2Proof/Machine/Ops.lean ====
section
/-! DEFINITION. The named operations over the parts of the state: cycle arithmetic, what a state lets the station do, values taken from the image, the eight channels, and the slot table with its roster (Chapter 2). -/

namespace Sys2Proof.Machine

/-! ## Cycle arithmetic (scope section 4) -/

/-- Cycle `a` is later than cycle `b`: (a − b) modulo 2^32 lies between 1 and 2^31 − 1. -/
def later (a b : Cycle) : Bool := decide (1 ≤ (a - b).toNat ∧ (a - b).toNat ≤ 2147483647)

/-- Cycle `a` is earlier than cycle `b`. -/
def earlier (a b : Cycle) : Bool := later b a

/-- A number of cycles added to a cycle number, modulo 2^32. -/
def ahead (c : Cycle) (n : Nat) : Cycle := c + BitVec.ofNat 32 n

/-! ## Times (R1) -/

/-- The frame region of a slot in bit times. -/
def frameRegion (payload : Nat) : Nat := 10 * (payload + 5)

/-- The length of a slot in bit times: the frame region and 20 of guard. -/
def slotLength (payload : Nat) : Nat := frameRegion payload + 20

/-- The nominal cycle length in bit times. -/
def nominalCycle (slots payload : Nat) : Nat := 80 + slots * slotLength payload

/-! ## What a state lets the station do (section 8.3) -/

/-- The states in which cycles run. -/
def StationState.cyclesRun : StationState → Bool
  | .learning | .quiet | .claiming | .active | .leaving => true
  | .config | .listening | .lineFault | .halted => false

/-- The states that take submissions and offer outbox items. -/
def StationState.talking : StationState → Bool
  | .claiming | .active => true
  | .config | .listening | .learning | .quiet | .leaving | .lineFault | .halted => false

/-- The states in which verdicts are staged and own slot frames fixed (R107, R113). -/
def StationState.stages : StationState → Bool
  | .claiming | .active | .leaving => true
  | .config | .listening | .learning | .quiet | .lineFault | .halted => false

/-- The states in which a line fault or a halt can be entered (R153, R155). -/
def StationState.onLine : StationState → Bool
  | .listening | .learning | .quiet | .claiming | .active | .leaving => true
  | .config | .lineFault | .halted => false

/-! ## Values of the configuration image -/

/-- S; 0 while there is no image. -/
def State.slots (s : State) : Nat := (s.sc.image.map fun im => im.slots.toNat).getD 0

/-- P; 0 while there is no image. -/
def State.payload (s : State) : Nat := (s.sc.image.map fun im => im.payload.toNat).getD 0

/-- W. -/
def State.wanted (s : State) : Nat := (s.sc.image.map Image.wanted).getD 0

/-- K. -/
def State.silenceLimit (s : State) : Nat := (s.sc.image.map Image.silenceLimit).getD 0

/-- R. -/
def State.retryLimit (s : State) : Nat := (s.sc.image.map Image.retries).getD 0

/-- D. -/
def State.window (s : State) : Nat := (s.sc.image.map Image.window).getD 0

/-- This station's number. -/
def State.self (s : State) : Station := (s.sc.image.map Image.station).getD 0

/-- The part is held in reset by either source (R141). -/
def State.held (s : State) : Bool := s.hold.powerOn || s.hold.pin

/-- Three nominal cycle lengths (R2). -/
def State.listenTime (s : State) : Nat := 3 * nominalCycle s.slots s.payload

/-! ## Slot times (R1, R3) -/

/-- R1: the place of a slot's beginning within the cycle. -/
def State.slotStart (s : State) (slot : Nat) : Nat := 80 + slot * slotLength s.payload

/-- The slot that begins next: slot 0 after the opening, and the one after a slot that has been judged. -/
def State.nextSlot (s : State) : Option Nat :=
  if s.sc.state.cyclesRun ∧ s.ct.phase = .slots then
    match s.ct.slotIndex with
    | none => some 0
    | some slot => if s.slot.judged ∧ slot + 1 < s.slots then some (slot + 1) else none
  else none

/-! ## The eight channels -/

def PerChannel.get {α : Type} (p : PerChannel α) (c : Channel) : α :=
  match c with
  | 0 => p.c0 | 1 => p.c1 | 2 => p.c2 | 3 => p.c3 | 4 => p.c4 | 5 => p.c5 | 6 => p.c6 | 7 => p.c7

def PerChannel.set {α : Type} (p : PerChannel α) (c : Channel) (a : α) : PerChannel α :=
  match c with
  | 0 => { p with c0 := a } | 1 => { p with c1 := a } | 2 => { p with c2 := a } | 3 => { p with c3 := a }
  | 4 => { p with c4 := a } | 5 => { p with c5 := a } | 6 => { p with c6 := a } | 7 => { p with c7 := a }

def PerChannel.map {α β : Type} (f : α → β) (p : PerChannel α) : PerChannel β :=
  { c0 := f p.c0, c1 := f p.c1, c2 := f p.c2, c3 := f p.c3, c4 := f p.c4, c5 := f p.c5, c6 := f p.c6, c7 := f p.c7 }

def PerChannel.zipWith {α β γ : Type} (f : α → β → γ) (p : PerChannel α) (q : PerChannel β) : PerChannel γ :=
  { c0 := f p.c0 q.c0, c1 := f p.c1 q.c1, c2 := f p.c2 q.c2, c3 := f p.c3 q.c3, c4 := f p.c4 q.c4, c5 := f p.c5 q.c5,
    c6 := f p.c6 q.c6, c7 := f p.c7 q.c7 }

/-! ## The slot table (R19) -/

/-- A FREE entry. -/
def SlotEntry.free : SlotEntry := { view := .free, failures := 0 }

/-- The station that claims or owns a slot. -/
def SlotView.owner : SlotView → Option Station
  | .free => none
  | .claimed z _ => some z
  | .held z _ => some z

/-- The entry shows HELD(z). -/
def SlotView.heldBy (z : Station) : SlotView → Bool
  | .held o _ => o == z
  | .free | .claimed _ _ => false

/-- The entry shows CLAIMED(z). -/
def SlotView.claimedBy (z : Station) : SlotView → Bool
  | .claimed o _ => o == z
  | .free | .held _ _ => false

/-- The entry of a slot; slot 0 and slots of S or more have none. -/
def SlotTable.entry (t : SlotTable) (slot : Nat) : Option SlotEntry :=
  if slot = 0 then none else t.entries[slot - 1]?

/-- The view of a slot, FREE where there is no entry. -/
def SlotTable.view (t : SlotTable) (slot : Nat) : SlotView :=
  ((t.entry slot).map SlotEntry.view).getD .free

/-- The failure count of a slot. -/
def SlotTable.failures (t : SlotTable) (slot : Nat) : Nat :=
  ((t.entry slot).map SlotEntry.failures).getD 0

/-- A slot's entry replaced; slot 0 has none. -/
def SlotTable.put (t : SlotTable) (slot : Nat) (e : SlotEntry) : SlotTable :=
  if slot = 0 then t else { t with entries := t.entries.set (slot - 1) e }

/-- The slots whose entry has a property, ascending; the first entry is that of slot `first`. -/
def slotsWhere (p : SlotView → Bool) : Nat → List SlotEntry → List Nat
  | _, [] => []
  | first, e :: es => if p e.view then first :: slotsWhere p (first + 1) es else slotsWhere p (first + 1) es

/-- The held-slot list of a station, ascending (R35). -/
def SlotTable.heldSlots (t : SlotTable) (z : Station) : List Nat := slotsWhere (SlotView.heldBy z) 1 t.entries

/-- The slots a station has claimed, ascending. -/
def SlotTable.claimedSlots (t : SlotTable) (z : Station) : List Nat := slotsWhere (SlotView.claimedBy z) 1 t.entries

/-- The FREE slots, ascending. -/
def SlotTable.freeSlots (t : SlotTable) : List Nat := slotsWhere (fun v => v == .free) 1 t.entries

/-- The held count (R19). -/
def State.heldCount (s : State) : Nat := (s.st.heldSlots s.self).length

/-- The claimed count (R19). -/
def State.claimedCount (s : State) : Nat := (s.st.claimedSlots s.self).length

/-- S − 1 FREE entries (R19). -/
def freeEntries (slots : Nat) : List SlotEntry := List.replicate (slots - 1) .free

/-- R34: every entry FREE, the roster empty, the free-slot report ARMED. -/
def SlotTable.clear (t : SlotTable) : SlotTable :=
  { entries := t.entries.map fun _ => .free, roster := [], reportArmed := true }

/-! ## The roster (R35 to R39) -/

/-- The roster record of a station. -/
def SlotTable.peer (t : SlotTable) (z : Station) : Option Peer := t.roster.find? fun p => p.station == z

/-- A record in its ascending place. -/
def insertPeer (p : Peer) : List Peer → List Peer
  | [] => [p]
  | q :: qs => if p.station < q.station then p :: q :: qs else q :: insertPeer p qs

/-- R36: a valid frame from a PRESENT peer sets its last-heard cycle. -/
def SlotTable.touch (t : SlotTable) (z : Station) (cycle : Cycle) : SlotTable :=
  { t with roster := t.roster.map fun p => if p.station = z then { p with lastHeard := cycle } else p }

/-- R37: a record for a station that had none. -/
def SlotTable.addPeer (t : SlotTable) (z : Station) (cycle : Cycle) : SlotTable :=
  { t with roster := insertPeer { station := z, joined := cycle, lastHeard := cycle } t.roster }

/-- R39: a station's record removed. -/
def SlotTable.dropPeer (t : SlotTable) (z : Station) : SlotTable :=
  { t with roster := t.roster.filter fun p => p.station != z }

/-- The stations PRESENT, ascending (R35). -/
def SlotTable.present (t : SlotTable) : List Station := t.roster.map Peer.station

/-! ## Line controller -/

/-- The line released and nothing being sent (R123). -/
def LineController.release (l : LineController) : LineController :=
  { l with drive := .released, sending := .nothing, arbitration := .outside, heldMismatch := false, crc := none,
           reception := none, overheard := none }

/-- R5, R123, R128, R129: the station starts to drive an opening pulse, `position` bit times after the falling edge of
the opening. A dominant run that stands on the line already goes on from its own falling edge. -/
def LineController.pulse (l : LineController) (position : Nat) : LineController :=
  { l with drive := .driving, sending := .opening, arbitration := .outside, heldMismatch := false, crc := none,
           reception := none, dominantRun := max position l.dominantRun, recessiveRun := 0, reading := none,
           overheard := none }

/-- R5, R128: the station lets the line go after the 12 bit times of its pulse, which counted on the run that it began in
or began; `passed` of them have been counted already (log entry 19). -/
def LineController.pulseEnd (l : LineController) (passed : Nat) : LineController :=
  { l with drive := .released, dominantRun := min 40 (max 12 (l.dominantRun + (12 - passed))) }

/-- R128: the line has been read recessive, and the dominant run is over. -/
def LineController.runEnd (l : LineController) : LineController := { l with dominantRun := 0 }

/-- R124, R128: the stop bit that ends a field of the opening is read recessive unless the field's framing was bad. -/
def LineController.fieldEnd (l : LineController) (damaged : Bool) : LineController := if damaged then l else l.runEnd

/-- R125 to R127, R132: LC starts an own frame with the start bit of its first byte, which lies before the arbitration
field; the accumulator starts at all ones, and no reception record stands. What a record opened in the guard holds is
kept aside until the frame has ended. -/
def LineController.send (l : LineController) (what : Sending) : LineController :=
  { l with drive := .driving, sending := what, arbitration := .outside, heldMismatch := false, crc := some 0xFFFF,
           reception := none, overheard := l.reception }

/-- R133: the record of a frame of which these bytes have been read. -/
def Reception.ofBytes (slot : Nat) (bs : List Byte) : Reception :=
  { slot := slot, bytes := bs, expected := expectedBytes slot bs, framing := false }

/-- R127, R133: the accumulator over the bytes read before the CRC. -/
def Reception.crc (r : Reception) : Word16 :=
  crc16 (match r.expected with
    | none => r.bytes
    | some n => r.bytes.take (n - 2))

/-- A reception record, with its accumulator (R123). -/
def LineController.record (l : LineController) (r : Reception) : LineController :=
  { l with reception := some r, crc := some r.crc }

/-- R132: a reception record with the bytes read so far. -/
def LineController.receive (l : LineController) (slot : Nat) (bs : List Byte) : LineController :=
  l.record (.ofBytes slot bs)

/-- R125, R132: at an arbitration loss LC opens a reception record at once, with what it overheard of the frame and the
bytes after it. -/
def LineController.hearOn (l : LineController) (slot : Nat) (overheard : Option Reception) (bs : List Byte) :
    LineController :=
  { l.record { Reception.ofBytes slot ((overheard.map Reception.bytes).getD [] ++ bs) with
      framing := overheard.any Reception.framing } with arbitration := .lost }

/-- R123, R132: LC at the beginning of a slot: nothing is being sent, and only a reception record that was opened for
this slot in the guard before it stands. -/
def LineController.turn (l : LineController) (slot : Nat) : LineController :=
  { l.release with
    reception := l.reception.filter fun r => r.slot == slot
    crc := if l.reception.any fun r => r.slot == slot then l.crc else none }

/-- The frame being received has ended; an arbitration that this station lost to it is past (R123). -/
def LineController.endReception (l : LineController) : LineController :=
  { l with reception := none, crc := none, arbitration := .outside }

end Sys2Proof.Machine
end

