-- ==== Sys2Proof/Machine/CueQueue.lean ====
section
/-! DEFINITION. The cue queue: subscriptions, the retired list, the verdict steps for cues and cancels, purge and abandon (Chapter 3). -/

namespace Sys2Proof.Machine

/-- R44: the local channel of a position. -/
def Subscription.channel (e : Subscription) (p : Position) : Option Channel :=
  match p with
  | 0 => e.pos0 | 1 => e.pos1 | 2 => e.pos2 | 3 => e.pos3

/-- R44: the local channel of a group and position, when the cue is mine. -/
def CueQueue.channelOf (q : CueQueue) (group : Byte) (p : Position) : Option Channel :=
  (q.subscriptions.find? fun e => e.group == group).bind fun e => e.channel p

/-- The queue holds a record with the id. -/
def CueQueue.holds (q : CueQueue) (id : CueId) : Bool := q.records.any fun r => r.id == id

/-- The reason under which the retired list holds the id. -/
def CueQueue.retiredAs (q : CueQueue) (id : CueId) : Option RetireReason :=
  (q.retired.find? fun e => e.id == id).map Retired.reason

/-- R45: the id becomes the newest entry; an old entry of it is removed, and the oldest is dropped from a full list. -/
def retire (list : List Retired) (id : CueId) (reason : RetireReason) : List Retired :=
  let others := list.filter fun e => e.id != id
  let room := if 32 ≤ others.length then others.drop 1 else others
  room ++ [{ id := id, reason := reason }]

/-- Ids retired in order, all with one reason. -/
def retireAll (list : List Retired) (ids : List CueId) (reason : RetireReason) : List Retired :=
  ids.foldl (fun l id => retire l id reason) list

/-- R49: the retired entry of an id removed. -/
def CueQueue.forget (q : CueQueue) (id : CueId) : CueQueue :=
  { q with retired := q.retired.filter fun e => e.id != id }

/-- The records with a property leave the queue and are retired in queue order. -/
def CueQueue.remove (q : CueQueue) (p : CueRecord → Bool) (reason : RetireReason) : CueQueue :=
  { q with records := q.records.filter fun r => !p r
           retired := retireAll q.retired ((q.records.filter p).map CueRecord.id) reason }

/-- R42: the due cycle's distance ahead of the current cycle. -/
def distance (now due : Cycle) : Nat := (due - now).toNat

/-- R42: a record due at (c, s) stands before one due at (d, t). -/
def dueBefore (now c : Cycle) (s : Nat) (d : Cycle) (t : Nat) : Bool :=
  decide (distance now c < distance now d ∨ (distance now c = distance now d ∧ s < t))

/-- R42: a record placed in order of due position, after the records of its own position. -/
def insertRecord (now : Cycle) (r : CueRecord) : List CueRecord → List CueRecord
  | [] => [r]
  | x :: xs =>
    if dueBefore now r.dueCycle r.dueSlot x.dueCycle x.dueSlot then r :: x :: xs else x :: insertRecord now r xs

/-- R51: the record built from an item. -/
def CueQueue.recordOf (q : CueQueue) (now : Cycle) (item : CueItem) (channel : Channel) : CueRecord :=
  { id := item.id, group := item.contents.group, position := item.contents.position, channel := channel,
    action := item.contents.action, dueCycle := ahead now item.lead, dueSlot := item.contents.dueSlot,
    replace := item.contents.replace, arrival := q.insertions }

/-- R48: what a retry is answered from the retired list. -/
def retryVerdict : RetireReason → Verdict
  | .fired | .superseded | .skipped => .duplicate
  | .cancelled | .cancelFirst => .cancelled

/-- R50, R51, steps 4 to 6: supersession, capacity and insertion, for a cue that is mine on `channel`. -/
def CueQueue.enterCue (q : CueQueue) (now : Cycle) (item : CueItem) (channel : Channel) :
    CueQueue × Verdict × List EventRecord :=
  let q1 := if item.contents.replace then q.remove (fun r => r.channel == channel) .superseded else q
  if 64 ≤ q1.records.length then
    (q1, .queueFull, [.cueRefused item.id item.contents.group item.contents.position (ahead now item.lead)
      item.contents.dueSlot item.retry])
  else
    ({ q1 with records := insertRecord now (q1.recordOf now item channel) q1.records
               insertions := q1.insertions + 1 }, .accepted, [])

/-- R46 to R51: a CUE item taken through the verdict steps: the queue after them, the verdict, and the CUE_REFUSED
record of a full queue. -/
def CueQueue.takeCue (q : CueQueue) (now : Cycle) (item : CueItem) : CueQueue × Verdict × List EventRecord :=
  match q.channelOf item.contents.group item.contents.position with
  | none => (q, .notMine, [])
  | some channel =>
    if q.holds item.id then (q, .duplicate, [])
    else
      match q.retiredAs item.id with
      | none => q.enterCue now item channel
      | some reason => if item.retry then (q, retryVerdict reason, []) else (q.forget item.id).enterCue now item channel

/-- R53: what a cancel is answered from the retired list. -/
def cancelVerdict : RetireReason → Verdict
  | .fired => .tooLate
  | .cancelled | .superseded | .skipped | .cancelFirst => .cancelled

/-- R52, R53: a CANCEL item. -/
def CueQueue.takeCancel (q : CueQueue) (id : CueId) : CueQueue × Verdict :=
  if q.holds id then (q.remove (fun r => r.id == id) .cancelled, .cancelled)
  else
    match q.retiredAs id with
    | some reason => (q, cancelVerdict reason)
    | none => ({ q with retired := retire q.retired id .cancelFirst }, .unknown)

/-- R58: the pending cancel applied after the offer of its own cue. Where the queue still holds an older record of the
same id, whose serial has come round, that record is the one removed, whatever the offer gave: the model's choice (log
entry 37). With no record held the id is retired CANCEL_FIRST whatever the retired list held (log entry 15). -/
def CueQueue.takePendingCancel (q : CueQueue) (id : CueId) : CueQueue × Verdict :=
  if q.holds id then (q.remove (fun r => r.id == id) .cancelled, .cancelled)
  else ({ q with retired := retire q.retired id .cancelFirst }, .unknown)

/-- R60: the records whose due cycle is earlier than the new current cycle. -/
def CueQueue.passed (q : CueQueue) (now : Cycle) : List CueRecord := q.records.filter fun r => earlier r.dueCycle now

/-- R60: the purge on a forward slip. -/
def CueQueue.purge (q : CueQueue) (now : Cycle) : CueQueue := q.remove (fun r => earlier r.dueCycle now) .skipped

/-- R61: every record and every retired entry goes; the insertion count becomes 0. -/
def CueQueue.abandon (q : CueQueue) : CueQueue := { q with records := [], retired := [], insertions := 0 }

/-- The record is due at (c, s). -/
def CueRecord.dueAt (c : Cycle) (slot : Nat) (r : CueRecord) : Bool := r.dueCycle == c && r.dueSlot == slot

end Sys2Proof.Machine
end

