-- ==== Sys2Proof/Machine/Channels.lean ====
section
/-! DEFINITION. The channel generators: actions, advances, firing, fault policy and the output stage (Chapter 4). -/

namespace Sys2Proof.Machine

/-- R65: the level of a channel. -/
def ChanState.level : ChanState → Byte
  | .idle => 0
  | .hold v => v
  | .ramp v _ _ _ _ => v
  | .pulse v _ _ _ .on _ => v
  | .pulse _ _ _ _ .off _ => 0

/-- R70, R71, R73, R75: an action applied to a channel. -/
def ChanState.apply (c : ChanState) : Action → ChanState
  | .set v => .hold v
  | .ramp t n => .ramp c.level c.level t n 0
  | .pulse v a b m => .pulse v a b m .on a
  | .release => .idle

/-- R72: the level of a ramp at step k below n, the division truncated toward zero. -/
def rampLevel (start target length step : Byte) : Byte :=
  BitVec.ofInt 8
    ((start.toNat : Int) + (((target.toNat : Int) - (start.toNat : Int)) * (step.toNat : Int)).tdiv (length.toNat : Int))

/-- R72, R74: one step of a running channel. -/
def ChanState.advance : ChanState → ChanState
  | .idle => .idle
  | .hold v => .hold v
  | .ramp _ start target n k =>
    if k.toNat + 1 < n.toNat then .ramp (rampLevel start target n (k + 1)) start target n (k + 1)
    else .hold target
  | .pulse v a b m phase phaseLeft =>
    if 1 < phaseLeft.toNat then .pulse v a b m phase (phaseLeft - 1)
    else
      match phase with
      | .off => .pulse v a b m .on a
      | .on =>
        if m = 1 then .idle
        else if m = 0 then .pulse v a b 0 .off b
        else .pulse v a b (m - 1) .off b

/-- R78: the fault policy of one channel. -/
def ChanState.underPolicy (c : ChanState) (settings : ChanSettings) : ChanState :=
  match settings.policy with
  | .safe => .hold settings.safeLevel
  | .hold =>
    match c with
    | .idle => .idle
    | .hold v => .hold v
    | .ramp v _ _ _ _ => .hold v
    | .pulse v _ _ _ .on _ => .hold v
    | .pulse _ _ _ _ .off _ => .hold 0

/-- R67: every running channel advances. -/
def ChannelGenerators.advance (g : ChannelGenerators) : ChannelGenerators :=
  { g with channels := g.channels.map ChanState.advance }

/-- R78: every channel's policy applied. -/
def ChannelGenerators.underPolicy (g : ChannelGenerators) : ChannelGenerators :=
  { g with channels := g.channels.zipWith ChanState.underPolicy g.settings }

/-- An action applied to one channel. -/
def ChannelGenerators.drive (g : ChannelGenerators) (c : Channel) (a : Action) : ChannelGenerators :=
  { g with channels := g.channels.set c ((g.channels.get c).apply a) }

/-- R66: the settings of a CONFIGURE. -/
def ChannelGenerators.configure (g : ChannelGenerators) (im : Image) : ChannelGenerators :=
  { g with settings := im.channels, rate := im.pwmRate }

/-- R80, R81: at a period start each output takes its channel's level, its polarity and the rate. -/
def ChannelGenerators.periodStart (g : ChannelGenerators) : ChannelGenerators :=
  { g with outputs := g.channels.zipWith (fun c st => { level := c.level, polarity := st.polarity }) g.settings
           outputRate := g.rate }

/-- R80: the period of a rate code in nanoseconds. -/
def pwmPeriod (rate : Fin 3) : Nat :=
  match rate with
  | 0 => 1000000 | 1 => 250000 | 2 => 62500

/-- R80, R81: whether an output pin is high `t` nanoseconds after the start of the period in progress: the output is
active for level/255 of the period from its start. -/
def OutputLatch.pinHigh (o : OutputLatch) (rate : Fin 3) (t : Nat) : Bool :=
  let active := decide (t * 255 < o.level.toNat * pwmPeriod rate)
  match o.polarity with
  | .activeHigh => active
  | .activeLow => !active

/-- R69: the CUE_FIRED record of a record applied, with the channel's level after it. -/
def firedRecord (r : CueRecord) (level : Byte) : EventRecord :=
  .cueFired r.id r.group r.position r.channel r.action r.dueCycle r.dueSlot level

/-- R68, R69: one due record handed over, retired FIRED and applied, in the accumulator of retired list, generators and
records to report. -/
def fireOne (acc : List Retired × ChannelGenerators × List EventRecord) (r : CueRecord) :
    List Retired × ChannelGenerators × List EventRecord :=
  let g := acc.2.1.drive r.channel r.action
  (retire acc.1 r.id .fired, g, acc.2.2 ++ [firedRecord r (g.channels.get r.channel).level])

/-- R67 to R69: the work of a slot beginning in CG: the advance, then the records due at (c, slot) in queue order. The
second part is the CUE_FIRED records to report, none while the report-firing flag is CLEAR. -/
def State.slotWork (s : State) (slot : Nat) : State × List EventRecord :=
  let due := s.cq.records.filter (CueRecord.dueAt s.ct.cycle slot)
  let fired := due.foldl fireOne (s.cq.retired, s.cg.advance, [])
  ({ s with cq := { s.cq with records := s.cq.records.filter fun r => !r.dueAt s.ct.cycle slot, retired := fired.1 }
            cg := fired.2.1 },
   if s.ev.reportFiring then fired.2.2 else [])

/-- The 17 bytes of READ_CHANNEL (R82, R189): a field the state does not use is sent as R187 sets. -/
def ChannelGenerators.bytes (g : ChannelGenerators) (c : Channel) : List Byte :=
  let ch := g.channels.get c
  let st := g.settings.get c
  let running : List Byte :=
    match ch with
    | .idle | .hold _ => [0, 0, 0, absent, 0, 0, 0, 0, absent, 0]
    | .ramp _ start target n k => [start, target, n, k, 0, 0, 0, 0, absent, 0]
    | .pulse v a b m phase phaseLeft => [0, 0, 0, absent, v, a, b, m, phase.code, phaseLeft]
  [byte c, ch.code, ch.level] ++ running ++ [st.polarity.code, st.policy.code, st.safeLevel, byte g.rate]

end Sys2Proof.Machine
end

