-- ==== Sys2Proof/Machine/Outbox.lean ====
section
/-! DEFINITION. The outbox: entries, serials, sends, answers, retries, deadlines, closure and the COVERAGE record (Chapter 5). -/

namespace Sys2Proof.Machine

/-! ## One entry (R83) -/

def OutEntry.isCue (e : OutEntry) : Bool :=
  match e.kind with
  | .cue _ _ => true
  | .cancel => false

/-- The kind of an entry. -/
def OutEntry.cueKind (e : OutEntry) : CueKind := if e.isCue then .cue else .cancel

/-- The entry of a kind and serial. -/
def OutEntry.named (e : OutEntry) (kind : CueKind) (n : Serial) : Bool := e.cueKind == kind && e.serial == n

def OutEntry.withdrawPending (e : OutEntry) : Bool :=
  match e.kind with
  | .cue _ w => w
  | .cancel => false

/-- Attempts: 0 before the first send. -/
def OutEntry.attempts (e : OutEntry) : Nat := (e.send.map SendData.attempts).getD 0

/-- R93: the due position of a CUE entry, from its first send. -/
def OutEntry.due (e : OutEntry) : Option (Cycle × Nat) :=
  match e.kind, e.send with
  | .cue t _, some d => some (ahead d.firstSend t.lead, t.contents.dueSlot)
  | _, _ => none

/-- The answer of a station. -/
def answerOf (answers : List (Station × Verdict)) (z : Station) : Option Verdict :=
  (answers.find? fun a => a.1 == z).map Prod.snd

/-- R98: an expected station whose answer is absent or QUEUE_FULL is unanswered. -/
def SendData.isUnanswered (d : SendData) (z : Station) : Bool :=
  match answerOf d.answers z with
  | none => true
  | some v => v == .queueFull

/-- The unanswered stations of an entry (R98, R102). -/
def OutEntry.unanswered (e : OutEntry) : List Station :=
  match e.send with
  | none => []
  | some d => d.expected.filter d.isUnanswered

/-- R98: an entry that has had its first send and has no unanswered station. -/
def OutEntry.complete (e : OutEntry) : Bool := e.send.isSome && e.unanswered.isEmpty

/-- R97: whether a verdict replaces what stood before. -/
def takeVerdict (before : Option Verdict) (v : Verdict) : Option Verdict :=
  match before, v with
  | none, v => some v
  | some old, .duplicate => some old
  | some .queueFull, .queueFull => some .queueFull
  | some old, .queueFull => some old
  | some _, v => some v

/-- An answer in its ascending place, in place of an earlier one of the station. -/
def putAnswer (z : Station) (v : Verdict) : List (Station × Verdict) → List (Station × Verdict)
  | [] => [(z, v)]
  | a :: as => if a.1 = z then (z, v) :: as else if z < a.1 then (z, v) :: a :: as else a :: putAnswer z v as

/-- R97: an answer taken. -/
def SendData.answer (d : SendData) (z : Station) (v : Verdict) : SendData :=
  match takeVerdict (answerOf d.answers z) v with
  | none => d
  | some w => { d with answers := putAnswer z w d.answers }

/-- R97: a self verdict taken. -/
def OutEntry.takeSelf (e : OutEntry) (v : Verdict) : OutEntry := { e with selfVerdict := takeVerdict e.selfVerdict v }

/-- R102: the record of an entry that closes with an outcome. -/
def OutEntry.coverage (e : OutEntry) (outcome : Outcome) : EventRecord :=
  let expected := (e.send.map SendData.expected).getD []
  let answers := (e.send.map SendData.answers).getD []
  let count := fun v => (expected.filter fun z => answerOf answers z == some v).length
  .coverage
    { kind := e.cueKind, serial := e.serial, outcome := outcome, expected := expected.length
      counts := match e.cueKind with
        | .cue => [count .accepted, count .notMine, count .duplicate, count .queueFull]
        | .cancel => [count .cancelled, count .tooLate, count .unknown]
      departed := (e.send.map SendData.departed).getD 0
      selfVerdict := e.selfVerdict
      missing := e.unanswered }

/-! ## Going through the entries -/

/-- Every entry in order of creation either stays, as `f` leaves it, or closes with an outcome; the second part is the
COVERAGE records in that order (R102). -/
def sweep (f : OutEntry → OutEntry × Option Outcome) : List OutEntry → List OutEntry × List EventRecord
  | [] => ([], [])
  | e :: es =>
    let rest := sweep f es
    match f e with
    | (e1, none) => (e1 :: rest.1, rest.2)
    | (e1, some o) => (rest.1, e1.coverage o :: rest.2)

/-- A sweep of the outbox, its COVERAGE records offered at once. -/
def State.sweepOutbox (s : State) (f : OutEntry → OutEntry × Option Outcome) : State :=
  { s with ob := { s.ob with entries := (sweep f s.ob.entries).1 } }.offers (sweep f s.ob.entries).2

/-- The entry of a kind and serial is changed by `f`; others stay. -/
def onEntry (kind : CueKind) (n : Serial) (f : OutEntry → OutEntry × Option Outcome) (e : OutEntry) :
    OutEntry × Option Outcome :=
  if e.named kind n then f e else (e, none)

/-- Closes COMPLETE when complete (R98). -/
def OutEntry.settle (e : OutEntry) : OutEntry × Option Outcome :=
  (e, if e.complete then some .complete else none)

/-- The open entry of a kind and serial. -/
def Outbox.find (o : Outbox) (kind : CueKind) (n : Serial) : Option OutEntry :=
  o.entries.find? fun e => e.named kind n

/-- An open CANCEL entry holds the serial. -/
def Outbox.cancelOpen (o : Outbox) (n : Serial) : Bool := (o.find .cancel n).isSome

/-- The outbox holds 16 entries (R84). -/
def Outbox.full (o : Outbox) : Bool := decide (16 ≤ o.entries.length)

/-! ## Serials and creation (R85 to R90) -/

/-- R85: the first serial from `n` on that no open entry holds, within `fuel` advances. -/
def freeSerial (entries : List OutEntry) : Nat → Serial → Serial
  | 0, n => n
  | fuel + 1, n => if entries.any fun e => e.serial == n then freeSerial entries fuel (n + 1) else n

/-- R85: the serial the next CUE entry takes. -/
def Outbox.nextSerial (o : Outbox) : Serial := freeSerial o.entries o.entries.length o.counter

/-- R86, R87: a CUE entry created. -/
def Outbox.submit (o : Outbox) (t : CueTemplate) (source : Source) : Outbox :=
  { entries := o.entries ++ [{ serial := o.nextSerial, kind := .cue t false, state := .queued, source := source,
                               send := none, selfVerdict := none }]
    counter := o.nextSerial + 1 }

/-- R89, R90: a CANCEL entry created. -/
def Outbox.addCancel (o : Outbox) (n : Serial) (self : Option Verdict) : Outbox :=
  { o with entries := o.entries ++ [{ serial := n, kind := .cancel, state := .queued, source := .host, send := none,
                                      selfVerdict := self }] }

/-! ## Deadlines, departures, abandon, withdrawal -/

/-- R101: at an opening that carries `now`, an entry whose deadline is not later closes. -/
def OutEntry.atDeadline (now : Cycle) (e : OutEntry) : OutEntry × Option Outcome :=
  match e.send with
  | none => (e, none)
  | some d =>
    (e, if later d.deadline now then none else some (if e.complete then .complete else .partialAnswers))

/-- R99: the departure of an expected station that is unanswered. -/
def SendData.depart (d : SendData) (z : Station) : SendData :=
  { d with expected := d.expected.filter fun y => y != z, answers := d.answers.filter fun a => a.1 != z,
           departed := d.departed + 1 }

/-- R99: what the departure of a station does to an entry. -/
def OutEntry.depart (z : Station) (e : OutEntry) : OutEntry × Option Outcome :=
  if e.unanswered.contains z then { e with send := e.send.map fun d => SendData.depart d z }.settle else (e, none)

/-- R103. -/
def OutEntry.abandon (e : OutEntry) : OutEntry × Option Outcome := (e, some .abandoned)

/-- R104: at a LEAVE every QUEUED entry closes WITHDRAWN but a CANCEL whose CUE entry is SENDING with withdraw-pending. -/
def OutEntry.atLeave (o : Outbox) (e : OutEntry) : OutEntry × Option Outcome :=
  let kept := !e.isCue &&
    (o.entries.any fun c => c.named .cue e.serial && c.state == .sending && c.withdrawPending)
  (e, if e.state == .queued && !kept then some .withdrawn else none)

/-- R88: a QUEUED CUE entry closes WITHDRAWN. -/
def OutEntry.withdraw (e : OutEntry) : OutEntry × Option Outcome := (e, some .withdrawn)

/-! ## Acknowledgements (R96) -/

/-- R96: the entry takes acknowledgements from this station. -/
def OutEntry.awaits (e : OutEntry) (z : Station) : Bool :=
  match e.send with
  | none => false
  | some d => d.expected.contains z

/-- R96 to R98: an ACK item addressed to this station. -/
def State.takeAck (s : State) (z : Station) (n : Serial) (v : Verdict) : State :=
  match s.ob.find v.kind n with
  | none => s.countStrayAck
  | some e =>
    if e.awaits z then
      s.sweepOutbox (onEntry v.kind n fun e => { e with send := e.send.map fun d => SendData.answer d z v }.settle)
    else s.countStrayAck

/-! ## Retries (R100) -/

/-- R100: a SENT entry is eligible for a retry. -/
def OutEntry.eligible (now : Cycle) (retries : Nat) (e : OutEntry) : Bool :=
  match e.send with
  | none => false
  | some d =>
    e.state == .sent && decide (d.attempts < 1 + retries) && !earlier now (ahead d.lastSend 2) &&
      (match e.due with
        | none => true
        | some due => later due.1 now) &&
      !e.unanswered.isEmpty

/-- R92: an entry offered to the frame builder: QUEUED, or eligible for a retry. -/
def OutEntry.candidate (now : Cycle) (retries : Nat) (e : OutEntry) : Bool :=
  e.state == .queued || e.eligible now retries

/-- R110: the candidates that are not passed over: a CUE whose serial an open CANCEL holds is passed over. -/
def State.ready (s : State) : List OutEntry :=
  s.ob.entries.filter fun e =>
    e.candidate s.ct.cycle s.retryLimit && !(e.isCue && s.ob.cancelOpen e.serial)

/-! ## The outcome of an own frame -/

/-- The item carries the entry of this kind and serial. -/
def TxItem.carries (kind : CueKind) (n : Serial) : TxItem → Bool
  | .cue m _ _ _ => kind == .cue && m == n
  | .cancel m => kind == .cancel && m == n
  | .release _ | .ack _ _ => false

/-- R93: the data of a first send. -/
def State.firstSend (s : State) (deadline : Nat) : SendData :=
  { attempts := 1, firstSend := s.ct.cycle, lastSend := s.ct.cycle, deadline := ahead s.ct.cycle deadline
    expected := s.st.present, answers := [], departed := 0 }

/-- R94: the data after a retry. -/
def SendData.again (d : SendData) (now : Cycle) : SendData :=
  { d with attempts := d.attempts + 1, lastSend := now }

/-- The self verdict of a CANCEL entry, if one is open (R56, R58, R94). -/
def State.cancelSelf (s : State) (n : Serial) (v : Verdict) : State :=
  s.sweepOutbox (onEntry .cancel n fun e => (e.takeSelf v, none))

/-- The CUE entry of a serial takes the verdict of its own queue on the cue, if the verdict is of the cue class; a
CANCELLED goes to the CANCEL entry of the serial, if one is open (R56, R94). -/
def State.ownVerdict (s : State) (n : Serial) (v : Verdict) : State :=
  match v.kind with
  | .cue => s.sweepOutbox (onEntry .cue n fun e => (e.takeSelf v, none))
  | .cancel => s.cancelSelf n v

/-- R56: a cue offered to the own queue; CUE_REFUSED is reported for a full queue. -/
def State.offerOwn (s : State) (item : CueItem) : State :=
  let t := s.cq.takeCue s.ct.cycle item
  ({ s with cq := t.1 }.offers t.2.2).ownVerdict item.id.serial t.2.1

/-- R93, R58: the CUE entry `n`, with contents and lead `t`, on its first send: its fields, the offer to the own queue,
the pending cancel of a withdraw-pending cue, and closure when nobody is expected. A CANCEL entry that can no longer be
sent then closes WITHDRAWN (R104). -/
def State.cueFirstSend (s : State) (n : Serial) (t : CueTemplate) (pending : Bool) : State :=
  let id : CueId := { originator := s.self, serial := n }
  let sent := s.sweepOutbox (onEntry .cue n fun e =>
    ({ e with state := .sent, kind := .cue t false, send := some (s.firstSend (min s.window t.lead)) }, none))
  let offered := sent.offerOwn { id := id, retry := false, lead := t.lead, contents := t.contents }
  let settled :=
    if pending then
      let c := offered.cq.takePendingCancel id
      { offered with cq := c.1 }.cancelSelf n c.2
    else offered
  let closed := settled.sweepOutbox (onEntry .cue n OutEntry.settle)
  if pending && !s.sc.state.talking then closed.sweepOutbox (onEntry .cancel n OutEntry.withdraw) else closed

/-- R94: the CUE entry `n` on a retry with the lead its frame carried. -/
def State.cueRetrySent (s : State) (n : Serial) (t : CueTemplate) (lead : Nat) : State :=
  (s.sweepOutbox (onEntry .cue n fun e =>
    ({ e with state := .sent, send := e.send.map fun d => d.again s.ct.cycle }, none))).offerOwn
    { id := { originator := s.self, serial := n }, retry := true, lead := lead, contents := t.contents }

/-- R93, R57: the CANCEL entry `n` on its first send. -/
def State.cancelFirstSend (s : State) (n : Serial) (self : Option Verdict) : State :=
  let sent := s.sweepOutbox (onEntry .cancel n fun e =>
    ({ e with state := .sent, send := some (s.firstSend s.window) }, none))
  let taken :=
    match self with
    | some _ => sent
    | none =>
      let c := sent.cq.takeCancel { originator := s.self, serial := n }
      { sent with cq := c.1 }.cancelSelf n c.2
  taken.sweepOutbox (onEntry .cancel n OutEntry.settle)

/-- R94: the CANCEL entry `n` on a retry. -/
def State.cancelRetrySent (s : State) (n : Serial) : State :=
  s.sweepOutbox (onEntry .cancel n fun e =>
    ({ e with state := .sent, send := e.send.map fun d => d.again s.ct.cycle }, none))

/-- R117: an item of the own frame, at the frame's completion. -/
def State.itemSent (s : State) (item : TxItem) : State :=
  match item with
  | .release _ | .ack _ _ => s
  | .cue n _ lead _ =>
    match s.ob.find .cue n with
    | some { kind := .cue t pending, state := .sending, send := none, .. } => s.cueFirstSend n t pending
    | some { kind := .cue t _, state := .sending, send := some _, .. } => s.cueRetrySent n t lead
    | _ => s
  | .cancel n =>
    match s.ob.find .cancel n with
    | some { state := .sending, send := none, selfVerdict := v, .. } => s.cancelFirstSend n v
    | some { state := .sending, send := some _, .. } => s.cancelRetrySent n
    | _ => s

/-- R95, R89: an entry of a frame that failed, in a station that talks or no longer does: a retry becomes SENT, a first
send QUEUED, or WITHDRAWN when it is withdraw-pending or cannot be sent again. -/
def OutEntry.fail (talking : Bool) (e : OutEntry) : OutEntry × Option Outcome :=
  if e.state ≠ .sending then (e, none)
  else if e.send.isSome then ({ e with state := .sent }, none)
  else ({ e with state := .queued }, if talking && !e.withdrawPending then none else some .withdrawn)

/-- R95: the frame that carried `items` has failed: an entry it carried returns or closes, and the CANCEL entry of a
withdraw-pending cue it carried closes with that cue (R89). -/
def OutEntry.takenBack (talking : Bool) (o : Outbox) (items : List TxItem) (e : OutEntry) : OutEntry × Option Outcome :=
  let pending := !e.isCue && items.any (TxItem.carries .cue e.serial) &&
    o.entries.any fun c => c.named .cue e.serial && c.state == .sending && c.send.isNone && c.withdrawPending
  if items.any (TxItem.carries e.cueKind e.serial) then e.fail talking
  else if pending then e.withdraw
  else (e, none)

/-- R95, R118, R119, R177: the entries of a failed own frame, gone through in order of creation. -/
def State.itemsFailed (s : State) (items : List TxItem) : State :=
  s.sweepOutbox (OutEntry.takenBack s.sc.state.talking s.ob items)

/-! ## READ_OUTBOX (R105, R189) -/

/-- The state code: QUEUED 0, SENDING on a first send 1, on a retry 2, SENT 3. -/
def OutEntry.stateCode (e : OutEntry) : Byte :=
  match e.state with
  | .queued => 0
  | .sending => if e.send.isNone then 1 else 2
  | .sent => 3

/-- The cue contents of a CANCEL entry are absent (R187, R189): byte by byte, 0 where the byte's field ranges to 255 or
has two bytes, FFh elsewhere. That the flags byte, of which REPLACE alone is a field, is FFh whole is the model's choice
(log entry 32). -/
def OutEntry.contentBytes (e : OutEntry) : List Byte :=
  match e.kind with
  | .cue t _ => t.bytes
  | .cancel => [0, absent, absent, 0, 0, 0, 0, absent, 0, 0, absent]

/-- The data of READ_OUTBOX after the marker (R189). -/
def OutEntry.bytes (e : OutEntry) : List Byte :=
  let answers := (e.send.map SendData.answers).getD []
  let cycleOf := fun (f : SendData → Cycle) => be4 ((e.send.map f).getD 0)
  [e.cueKind.code] ++ be2 e.serial.toNat ++ [e.stateCode, e.source.code,
      if e.isCue then boolCode e.withdrawPending else absent, byte e.attempts] ++
    cycleOf SendData.firstSend ++ cycleOf SendData.lastSend ++
    be4 ((e.due.map Prod.fst).getD 0) ++ [((e.due.map fun d => byte d.2).getD absent)] ++
    cycleOf SendData.deadline ++
    be4 (mapOf (((e.send.map SendData.expected).getD []).map BitVec.toNat)) ++
    [(e.send.map fun d => byte d.departed).getD absent, (e.selfVerdict.map Verdict.code).getD absent] ++
    be4 (mapOf (e.unanswered.map BitVec.toNat)) ++ e.contentBytes ++
    [byte answers.length] ++ answers.flatMap fun a => [a.1.setWidth 8, a.2.code]

end Sys2Proof.Machine
end

