-- ==== Sys2Proof/Machine/Station.lean ====
section
/-! DEFINITION. The station controller's transitions with their records, and what entry to LINE_FAULT, HALTED and a resynchronization do to every block (Chapter 8). -/

namespace Sys2Proof.Machine

/-- R156: the station state changes and STATE_CHANGED is reported. The staging list is emptied on entry to a state other
than CLAIMING, ACTIVE and LEAVING (R114). -/
def State.changeState (s : State) (after : StationState) (reason : Reason) : State :=
  { s with sc := { s.sc with state := after }
           fb := { s.fb with staging := if after.stages then s.fb.staging else [] } }.offer
    (.stateChanged s.sc.state after reason s.ct.cycle s.heldCount)

/-- R148, R150: SC's check of the counts that the slot table passes to it. -/
def State.checkCounts (s : State) : State :=
  match s.sc.state with
  | .claiming => if s.wanted ≤ s.heldCount then s.changeState .active .slotsFull else s
  | .active => if s.heldCount < s.wanted then s.changeState .claiming .slotShort else s
  | .leaving => if s.heldCount = 0 ∧ s.claimedCount = 0 then s.changeState .quiet .left else s
  | .config | .listening | .learning | .quiet | .lineFault | .halted => s

/-- R2: CT stops; the cycle number and the count history are kept. -/
def CycleTimer.stop (c : CycleTimer) : CycleTimer :=
  { CycleTimer.reset with cycle := c.cycle, history := c.history }

/-- R2, R15: CT waits, the listen window started anew. -/
def CycleTimer.wait (c : CycleTimer) (window : Nat) : CycleTimer :=
  { CycleTimer.reset with phase := .waiting, cycle := c.cycle, history := c.history, role := .observer,
                          listenWindow := some window }

/-- An opening in which nothing has been read yet. -/
def Opening.fresh (stage : OpeningStage) : Opening :=
  { stage := stage, lost := false, numberDamaged := false, shapeDamaged := false, number := 0, slip := 0,
    backward := false }

/-- R4, R16: CT begins an opening in which the station takes part; `position` is the time since its edge. -/
def CycleTimer.participate (c : CycleTimer) (proposal : Cycle) (position : Nat) : CycleTimer :=
  { c with phase := .opening, slotIndex := none, position := some position, role := .participant,
           proposal := some proposal, listenWindow := none, opening := some (.fresh .pulse) }

/-- R13, R15: CT begins an opening that the station observes, timed from the pulse's falling edge. -/
def CycleTimer.observe (c : CycleTimer) (position : Nat) : CycleTimer :=
  { c with phase := .opening, slotIndex := none, position := some position, role := .observer, proposal := none,
           listenWindow := none, opening := some (.fresh .number) }

/-- R103, R34, R61, R114: what a line fault, a halt and a resynchronization do alike: the queue and its retired list are
abandoned, every outbox entry closes, the staging list and the frame in transmission go, the slot table is cleared, the
line is released. -/
def State.dropWork (s : State) (after : StationState) : State :=
  { s with sc := { s.sc with state := after }
           st := s.st.clear
           slot := .blank
           cq := s.cq.abandon
           ob := { s.ob with entries := [] }
           fb := .reset
           lc := s.lc.release }

/-- R157: the records of such a transition, in their order: STATE_CHANGED, the transition's own record, CUES_ABANDONED,
one COVERAGE per outbox entry. -/
def State.dropRecords (s : State) (after : StationState) (reason : Reason) (own : EventRecord) (cause : AbandonCause) :
    List EventRecord :=
  [.stateChanged s.sc.state after reason s.ct.cycle (s.dropWork after).heldCount, own,
    .cuesAbandoned s.cq.records.length cause s.ct.cycle] ++ (sweep OutEntry.abandon s.ob.entries).2

/-- The entry to LINE_FAULT or HALTED beyond that (R153, R155): CT stops, the fault policy is applied, the fault reason
is set, LC reads no byte and its recessive run is set to 0. DESIGN CHOICE (log entry 39): an opening that a line fault
cuts short and that was damaged is counted nowhere (R12); the row that finds a shape mismatch counts its own first. -/
def State.standOff (s : State) (after : StationState) (reason : FaultReason) : State :=
  let t := s.dropWork after
  { t with sc := { t.sc with faultReason := some reason }, ct := s.ct.stop, cg := s.cg.underPolicy
           lc := { t.lc with recessiveRun := 0, reading := none } }

/-- R153: entry to LINE_FAULT. -/
def State.enterLineFault (s : State) (reason : FaultReason) : State :=
  (s.standOff .lineFault reason).offers
    (s.dropRecords .lineFault reason.toReason (.lineFault reason s.sc.state s.ct.cycle false) .lineFault)

/-- R155: entry to HALTED. -/
def State.enterHalted (s : State) (reason : FaultReason) : State :=
  (s.standOff .halted reason).offers
    (s.dropRecords .halted reason.toReason (.halted reason s.sc.state s.ct.cycle) .halted)

/-- R152: resynchronization into LEARNING; the channels keep running (R79). -/
def State.resync (s : State) (reason : Reason) (own : EventRecord) : State :=
  (s.dropWork .learning).offers (s.dropRecords .learning reason own .resync)

end Sys2Proof.Machine
end

