-- ==== Sys2Proof/Machine/Frames.lean ====
section
/-! DEFINITION. The frame builder: when a frame is fixed and with what, the ack staging list, and the outcomes of own frames (Chapter 6). -/

namespace Sys2Proof.Machine

/-! ## The staging list (R113, R114) -/

/-- The entry of an id and class. -/
def Staged.keyed (e : Staged) (id : CueId) (kind : CueKind) : Bool := e.id == id && e.verdict.kind == kind

/-- R113: a verdict that replaces one in flight stays after the frame. -/
def Flight.replacedNow : Flight → Flight
  | .waiting => .waiting
  | .inFlight => .replaced
  | .replaced => .replaced

/-- R113: the entry of the verdict's id and class takes the verdict and keeps its place. -/
def Staged.renew (id : CueId) (v : Verdict) (e : Staged) : Staged :=
  if e.keyed id v.kind then { e with verdict := v, flight := e.flight.replacedNow } else e

/-- R113, R114: a verdict on a peer's item: discarded in LEARNING and QUIET, put in place of that of the same id and
class, appended, or dropped and counted when the list is full. -/
def State.stage (s : State) (id : CueId) (v : Verdict) : State :=
  if !s.sc.state.stages then s
  else if (s.fb.staging.any fun e => e.keyed id v.kind) then
    { s with fb := { s.fb with staging := s.fb.staging.map (Staged.renew id v) } }
  else if 32 ≤ s.fb.staging.length then s.countAckDropped
  else { s with fb := { s.fb with staging := s.fb.staging ++ [{ id := id, verdict := v, flight := .waiting }] } }

/-- R117: the entries that were in flight leave; one replaced meanwhile stays. -/
def stagingSent (list : List Staged) : List Staged :=
  (list.filter fun e => e.flight != .inFlight).map fun e => { e with flight := .waiting }

/-- R118, R119: every entry stays in its place. -/
def stagingKept (list : List Staged) : List Staged := list.map fun e => { e with flight := .waiting }

/-! ## Choosing the content (R109 to R112) -/

/-- R111: how many acknowledgements a frame may carry. -/
def State.ackLimit (s : State) : Nat :=
  if s.sc.state = .leaving then (s.payload - 2) / 4
  else if s.ready.isEmpty then s.payload / 4
  else s.payload / 2 / 4

/-- The outbox candidates of a frame: none in LEAVING (R109, R112). -/
def State.frameCandidates (s : State) : List OutEntry := if s.sc.state = .leaving then [] else s.ready

/-- R109: the RELEASE of a LEAVING frame. -/
def State.releaseItems (s : State) (slot : Nat) : List TxItem :=
  if s.sc.state = .leaving then [.release slot] else []

/-- R92, R110: a CANCEL entry as an item. -/
def OutEntry.cancelItem (e : OutEntry) : Option TxItem :=
  match e.kind with
  | .cancel => some (.cancel e.serial)
  | .cue _ _ => none

/-- R92, R110: a CUE entry as an item: at a first send with the lead L, at a retry with the RETRY flag and the due cycle
less the current cycle. -/
def OutEntry.cueItem (now : Cycle) (e : OutEntry) : Option TxItem :=
  match e.kind with
  | .cancel => none
  | .cue t _ =>
    some (match e.due with
      | none => .cue e.serial false t.lead t.contents
      | some due => .cue e.serial true (due.1 - now).toNat t.contents)

/-- R109: the items of a slot frame, in four passes. Within a pass all items have one size, so a pass places as many as
fit. -/
def State.frameItems (s : State) (slot : Nat) : List TxItem :=
  let release := s.releaseItems slot
  let acks := (s.fb.staging.take s.ackLimit).map fun e => TxItem.ack e.id e.verdict
  let room := s.payload - 2 * release.length - 4 * acks.length
  let cancels := (s.frameCandidates.filterMap OutEntry.cancelItem).take (room / 3)
  let cues := (s.frameCandidates.filterMap (OutEntry.cueItem s.ct.cycle)).take ((room - 3 * cancels.length) / 12)
  release ++ acks ++ cancels ++ cues

/-- R92: an entry placed in the frame becomes SENDING. -/
def OutEntry.placed (items : List TxItem) (e : OutEntry) : OutEntry :=
  if items.any (TxItem.carries e.cueKind e.serial) then { e with state := .sending } else e

/-- R111: the first `n` entries are in flight. -/
def markInFlight : Nat → List Staged → List Staged
  | 0, list => list
  | _ + 1, [] => []
  | n + 1, e :: es => { e with flight := .inFlight } :: markInFlight n es

/-- R107 to R112, R126: a slot frame fixed at the beginning of its slot, LC starting its first byte. -/
def State.fixSlotFrame (s : State) (slot : Nat) : State :=
  let items := s.frameItems slot
  { s with fb := { staging := markInFlight s.ackLimit s.fb.staging
                   transmission := some { kind := .slot slot, cycleCheck := s.ct.cycle.setWidth 8, items := items } }
           ob := { s.ob with entries := s.ob.entries.map (OutEntry.placed items) }
           lc := s.lc.send .slot }

/-- R107: whether a slot frame is fixed for a slot. -/
def State.fixes (s : State) (slot : Nat) : Bool :=
  match s.st.view slot with
  | .held z _ => z == s.self && s.sc.state.stages
  | .claimed z claimCycle => z == s.self && s.sc.state.talking && later s.ct.cycle claimCycle
  | .free => false

/-- R115, R126: a claim frame fixed for slot `r`. -/
def State.fixClaim (s : State) (r : Nat) : State :=
  { s with fb := { s.fb with
             transmission := some { kind := .claim r, cycleCheck := s.ct.cycle.setWidth 8, items := [] } }
           lc := s.lc.send .claim }

/-- R21, R22: the claim policy at slot 0's beginning: the frame fixed, or the NO_FREE_SLOT record to report. -/
def State.claimPolicy (s : State) : State × List EventRecord :=
  let free := s.st.freeSlots
  let s1 := if free.isEmpty then s else { s with st := { s.st with reportArmed := true } }
  if s.sc.state = .claiming ∧ s.heldCount + s.claimedCount < s.wanted then
    match free with
    | r :: _ => (s1.fixClaim r, [])
    | [] =>
      if s.st.reportArmed then
        ({ s with st := { s.st with reportArmed := false } },
         [.noFreeSlot s.ct.cycle s.heldCount s.claimedCount])
      else (s, [])
  else (s1, [])

/-! ## Outcomes (R116 to R119) -/

/-- The frame record becomes absent, LC has released the line, and the outcome is noted for the slot's judgement. After
an arbitration loss the slot's finding is that of the winner's frame, still to come (R31, R132). -/
def State.endFrame (s : State) (own : OwnOutcome) : State :=
  { s with fb := { s.fb with transmission := none }, lc := s.lc.release
           slot := { s.slot with own := own
                                 finding := if own = .arbitrationLost then none else s.slot.finding } }

/-- R32, R117: the RELEASE of a completed own frame frees the own slot at once. -/
def State.releaseOwn (s : State) (slot : Nat) : State :=
  if (s.st.view slot).heldBy s.self then
    let t := { s with st := s.st.put slot .free }
    (t.offer (.slotLost slot .released s.ct.cycle t.heldCount)).checkCounts
  else s

/-- R31, R119: a header loss frees the own entry at once. -/
def State.loseOwn (s : State) (slot : Nat) : State :=
  if (s.st.view slot).heldBy s.self then
    let t := { s with st := s.st.put slot .free }
    (t.offer (.slotLost slot .displaced s.ct.cycle t.heldCount)).checkCounts
  else if (s.st.view slot).claimedBy s.self then { s with st := s.st.put slot .free }.checkCounts
  else s

/-- The failure count of a slot. -/
def State.setFailures (s : State) (slot n : Nat) : State :=
  match s.st.entry slot with
  | none => s
  | some e => { s with st := s.st.put slot { e with failures := n } }

/-- The frame carries a RELEASE. -/
def TxFrame.releases (f : TxFrame) : Bool :=
  f.items.any fun i => match i with
    | .release _ => true
    | .ack _ _ | .cancel _ | .cue _ _ _ _ => false

/-- R117: the own slot frame completes. -/
def State.frameDone (s : State) (slot : Nat) (f : TxFrame) : State :=
  let s1 := { s with fb := { s.fb with staging := stagingSent s.fb.staging } }
  let s2 := f.items.foldl State.itemSent s1
  let s3 := (s2.setFailures slot 0).endFrame (.completed f.releases)
  if f.releases then s3.releaseOwn slot else s3

/-- R118: the own slot frame ends in a bit error. -/
def State.frameBroken (s : State) (slot : Nat) (f : TxFrame) : State :=
  let s1 := { s with fb := { s.fb with staging := stagingKept s.fb.staging } }
  let s2 := s1.itemsFailed f.items
  let s3 := if (s2.st.view slot).heldBy s2.self then s2.setFailures slot (s2.st.failures slot + 1) else s2
  s3.countOwnFailure.endFrame .bitError

/-- R119, R132: the own slot frame loses the header arbitration; a reception record is opened at once with the bytes
already on the line. -/
def State.frameBeaten (s : State) (slot : Nat) (f : TxFrame) : State :=
  let s1 := { s with fb := { s.fb with staging := stagingKept s.fb.staging } }
  let s2 := (s1.itemsFailed f.items).endFrame .arbitrationLost
  let s3 := { s2 with lc := s2.lc.hearOn slot s.lc.overheard [] }
  s3.loseOwn slot

end Sys2Proof.Machine
end

