-- ==== Sys2Proof/Machine/Judge.lean ====
section
/-! DEFINITION. The slot table's judgement of a slot: claims, confirmations, silences, displacements, releases and the roster changes they bring (Chapter 2). -/

namespace Sys2Proof.Machine

/-- R39, R99: station `z` has lost its HELD entry `slot`. When it has no other, its record goes, PEER_LOST is reported
and the outbox is told; the second part is the COVERAGE records of the entries that this completes, still to be
reported. -/
def State.peerGone (s : State) (z : Station) (slot : Nat) (reason : LossReason) : State × List EventRecord :=
  match s.st.peer z with
  | none => (s, [])
  | some p =>
    if (s.st.heldSlots z).isEmpty then
      let t := { s with st := s.st.dropPeer z }.offer (.peerLost z slot reason s.ct.cycle p.lastHeard)
      ({ t with ob := { t.ob with entries := (sweep (OutEntry.depart z) t.ob.entries).1 } },
       (sweep (OutEntry.depart z) t.ob.entries).2)
    else (s, [])

/-- The same with the COVERAGE records reported at once. -/
def State.loseHeld (s : State) (z : Station) (slot : Nat) (reason : LossReason) : State :=
  (s.peerGone z slot reason).1.offers (s.peerGone z slot reason).2

/-- R24: a claim for slot `r` by station `c` recorded in the table. -/
def State.recordClaim (s : State) (r : Nat) (c : Station) : State :=
  let before := s.st.view r
  if before.owner = some s.self ∧ c ≠ s.self then s
  else
    let t := { s with st := s.st.put r { view := .claimed c s.ct.cycle, failures := 0 } }
    let u :=
      match before with
      | .held z _ => if z = s.self then t else t.loseHeld z r .displaced
      | .free | .claimed _ _ => t
    if c = s.self then u.checkCounts else u

/-- R24, R36, R139: a valid claim frame with requested slot `r` and claimer `c`: a slot out of range changes no entry;
the claimer's last-heard cycle is updated if it is PRESENT. The loss of a HELD entry comes first: a PEER_LOST for the
claimer itself carries its last-heard cycle from before this frame, which is the model's choice (log entry 30). -/
def State.applyClaim (s : State) (r c : Nat) : State :=
  let t := if 1 ≤ r ∧ r < s.slots then s.recordClaim r (BitVec.ofNat 5 c) else s
  if c ≤ 31 then { t with st := t.st.touch (BitVec.ofNat 5 c) s.ct.cycle } else t

/-- R26, R37, R38: a valid slot frame from station `z` in slot `slot`. PEER_LOST for a displaced peer precedes
PEER_JOINED (R39); the COVERAGE records of its departure stand in an order with PEER_JOINED that is left open (R177). -/
def State.seeOwner (s : State) (slot : Nat) (z : Station) : State :=
  let before := s.st.view slot
  let put := { s with st := s.st.put slot { view := .held z 0, failures := 0 } }
  let checked := if before.owner = some s.self then put.checkCounts else put
  let gone :=
    match before with
    | .held y _ => if y = z ∨ y = s.self then (checked, []) else checked.peerGone y slot .displaced
    | .free | .claimed _ _ => (checked, [])
  if (gone.1.st.peer z).isSome then
    { gone.1 with st := gone.1.st.touch z s.ct.cycle }.offers gone.2
  else
    { gone.1 with st := gone.1.st.addPeer z s.ct.cycle }.offersUnordered gone.2 [.peerJoined z slot s.ct.cycle]

/-- R27: no frame or an invalid frame in a slot. -/
def State.seeSilence (s : State) (slot : Nat) : State :=
  match s.st.view slot with
  | .free => s
  | .claimed c claimCycle =>
    if later s.ct.cycle claimCycle then
      let t := { s with st := s.st.put slot .free }
      if c = s.self then t.checkCounts else t
    else s
  | .held z n =>
    if n + 1 < s.silenceLimit then
      { s with st := s.st.put slot { view := .held z (n + 1), failures := s.st.failures slot } }
    else
      let t := { s with st := s.st.put slot .free }
      if z = s.self then t.checkCounts else t.loseHeld z slot .lapsed

/-- R28: a RELEASE item of station `z` naming slot `r`. -/
def State.applyRelease (z : Station) (s : State) (r : Nat) : State :=
  match s.st.view r with
  | .free => s
  | .claimed o _ => if o = z then { s with st := s.st.put r .free } else s
  | .held o _ => if o = z then { s with st := s.st.put r .free }.loseHeld z r .released else s

/-- R20, R24, R26 to R28: a slot judged on LC's finding. -/
def State.judgeHeard (s : State) (slot : Nat) : State :=
  match s.slot.finding with
  | some (.claim r c) => s.applyClaim r.toNat c.toNat
  | some (.slotFrame z) => s.slot.releases.foldl (State.applyRelease z) (s.seeOwner slot z)
  | some .invalid | none => s.seeSilence slot

/-- R29, R30: the own frame of the slot completed. -/
def State.judgeCompleted (s : State) (slot : Nat) : State :=
  match s.st.view slot with
  | .held z _ =>
    if z = s.self then { s with st := s.st.put slot { view := .held z 0, failures := s.st.failures slot } } else s
  | .claimed c _ =>
    if c = s.self then
      let t := { s with st := s.st.put slot { view := .held c 0, failures := 0 } }
      (t.offer (.slotGained slot s.ct.cycle t.heldCount)).checkCounts
    else s
  | .free => s

/-- R29, R30: the own frame of the slot ended in a bit error. -/
def State.judgeBroken (s : State) (slot : Nat) : State :=
  match s.st.view slot with
  | .held z _ =>
    if z = s.self then
      if s.silenceLimit ≤ s.st.failures slot then
        let t := { s with st := s.st.put slot .free }
        (t.offer (.slotLost slot .lapsed s.ct.cycle t.heldCount)).checkCounts
      else
        { s with st := s.st.put slot { view := .held z (s.st.failures slot), failures := s.st.failures slot } }
    else s
  | .claimed c _ => if c = s.self then { s with st := s.st.put slot .free }.checkCounts else s
  | .free => s

/-- The judgement of the slot in progress, once, on what FB reported of the own frame or on LC's finding (R20). -/
def State.judge (s : State) : State :=
  match s.ct.slotIndex with
  | none => s
  | some slot =>
    let t :=
      match s.slot.own with
      | .claimCompleted r => s.applyClaim r s.self.toNat
      | .completed released => if released then s else s.judgeCompleted slot
      | .bitError => s.judgeBroken slot
      | .silent | .arbitrationLost => s.judgeHeard slot
    { t with slot := { t.slot with judged := true } }

end Sys2Proof.Machine
end

