-- ==== Sys2Proof/Machine/Receive.lean ====
section
/-! DEFINITION. Reception: LC's finding on a frame, the twin and cycle checks, and the dispatch of its items (Chapter 7). -/

namespace Sys2Proof.Machine

/-- R132: LC may be assembling a frame in the slot in progress: cycles run, the slot is not judged, no finding has been
given, and this station is not sending, has not completed a frame and has had no bit error there. -/
def State.listens (s : State) : Bool :=
  s.sc.state.cyclesRun && s.ct.phase == .slots && s.ct.slotIndex.isSome && !s.slot.judged && s.slot.finding.isNone &&
    s.fb.transmission.isNone && (s.slot.own == .silent || s.slot.own == .arbitrationLost)

/-- The finding noted for the slot's judgement; the reception record goes. -/
def State.note (s : State) (f : Finding) : State :=
  { s with slot := { s.slot with finding := some f }, lc := s.lc.endReception }

/-- R133: the judgement that waited for the frame's end is made. -/
def State.judgeLate (s : State) : State := if s.slot.ended then s.judge else s

/-- R134: the finding is invalid through a framing error, a gap or a cut-off. -/
def State.frameLost (s : State) : State := (s.countFormat.note .invalid).judgeLate

/-- R46 to R51, R113: a CUE item from a peer. -/
def State.takeCueItem (s : State) (item : CueItem) : State :=
  let t := s.cq.takeCue s.ct.cycle item
  ({ s with cq := t.1 }.offers t.2.2).stage item.id t.2.1

/-- R52, R53, R113: a CANCEL item from a peer. -/
def State.takeCancelItem (s : State) (id : CueId) : State :=
  let t := s.cq.takeCancel id
  { s with cq := t.1 }.stage id t.2

/-- R138: one item of a frame from station `z`. -/
def State.dispatch (z : Station) (s : State) (item : LineItem) : State :=
  match item with
  | .cue serial retry lead contents =>
    s.takeCueItem { id := { originator := z, serial := serial }, retry := retry, lead := lead, contents := contents }
  | .cancel serial => s.takeCancelItem { originator := z, serial := serial }
  | .ack originator serial verdict => if originator = s.self then s.takeAck z serial verdict else s
  | .release slot => { s with slot := { s.slot with releases := s.slot.releases ++ [slot] } }

/-- R136 to R138: a valid slot frame that is not a twin frame, from station `z`. -/
def State.takeFrame (s : State) (z : Station) (bs : List Byte) : State :=
  if byteAt bs 1 = s.ct.cycle.setWidth 8 then
    let area := itemArea bs
    let parsed := parseItems s.slots area.length area
    let t := parsed.1.foldl (State.dispatch z) s
    if parsed.2 then t.countFormat else t
  else s.countCycleCheck

/-- R139: a valid claim frame that is not a twin frame. -/
def State.takeClaim (s : State) (r : Byte) : State :=
  if r.toNat = 0 ∨ s.slots ≤ r.toNat then s.countFormat else s

/-- R134 to R139: what a finding that is valid brings. A twin frame halts the station (R135); for a slot frame that means
no own frame in the slot, while an own claim that lost the arbitration does not stop the twin check. -/
def State.takeValid (s : State) (f : Finding) (bs : List Byte) : State :=
  match f with
  | .claim r c => if c.toNat = s.self.toNat then s.enterHalted .twin else ((s.takeClaim r).note f).judgeLate
  | .slotFrame z =>
    if z = s.self then (if s.slot.own = .silent then s.enterHalted .twin else s)
    else ((s.note f).takeFrame z bs).judgeLate
  | .invalid => s

/-- R133, R134: a received frame ends. Its bytes are those delivered with good framing: the badly framed byte that ends a
frame early is not among them, so an item length above P is read from a well-framed third byte alone (the model's
choice, log entry 33). -/
def State.receive (s : State) (bs : List Byte) (framingError : Bool) : State :=
  match s.ct.slotIndex with
  | none => s
  | some slot =>
    match assess slot s.slots s.payload bs framingError with
    | .ok f => s.takeValid f bs
    | .error .crc => (s.countCrc.note .invalid).judgeLate
    | .error .format =>
      if overlong slot s.payload bs then
        { s with slot := { s.slot with swallow := true } }.frameLost
      else s.frameLost

/-- R132: LC stands in the guard that precedes a slot, and no frame of that slot has ended there yet. -/
def State.listensAhead (s : State) : Bool :=
  s.nextSlot.isSome && s.fb.transmission.isNone && !s.slot.early

/-- R132 to R134: the next slot's frame has begun in the guard and ended there early: its finding is invalid. -/
def State.lostAhead (s : State) : State :=
  let t := s.countFormat
  { t with slot := { t.slot with early := true }, lc := t.lc.endReception }

/-- R132: a byte read now belongs to no reception record and is counted: not while this station sends; in a slot's frame
region and guard, not after a bit error of its own frame and not after an item length above P (R133); in any guard, when
the next slot's frame has already ended there. -/
def State.countsStray (s : State) : Bool :=
  s.sc.state.cyclesRun && s.ct.phase == .slots && s.fb.transmission.isNone && s.lc.reception.isNone &&
    (s.slot.early || (s.ct.slotIndex.isSome && s.slot.own != .bitError && !s.slot.swallow))

end Sys2Proof.Machine
end

