-- ==== Sys2Proof/Machine/Openings.lean ====
section
/-! DEFINITION. The cycle timer's openings: the number field, the shape byte, what opening ends does, stray and observed openings, and the slot events (Chapter 1). -/

namespace Sys2Proof.Machine

/-- R4, R129: a synchronized station begins to open, `position` bit times after the edge. -/
def State.beginOpening (s : State) (position : Nat) : State :=
  { s with ct := s.ct.participate (s.ct.cycle + 1) position, lc := s.lc.pulse position, slot := .blank }

/-- R4: the opening window stands: slot S − 1 has been judged. -/
def State.windowOpen (s : State) : Bool :=
  s.sc.state.cyclesRun && s.ct.phase == .slots && s.ct.slotIndex == some (s.slots - 1) && s.slot.judged

/-- R16: what a self-opening station proposes. -/
def CycleTimer.selfProposal (c : CycleTimer) : Cycle :=
  match c.history with
  | .unsettled => 0
  | .held => c.cycle + 1

/-- R7, R12, R14, R16: the number, the slip amount and the backward mark that a number field settles. `listening` is a
station in LISTENING, which simply adopts a number that is neither equal nor later. -/
def settleNumber (role : OpeningRole) (listening damaged : Bool) (cycle proposal winning : Cycle) : Cycle × Cycle × Bool :=
  match role with
  | .participant =>
    if damaged then (proposal, 0, false)
    else if winning = proposal then (proposal, 0, false)
    else if later winning proposal then (winning, winning - proposal, false)
    else (winning, 0, !listening)
  | .observer | .idle => if damaged then (cycle + 1, 0, false) else (winning, 0, false)

/-- R6, R7: the end of the number field; `read` stands complemented on the line. A dominant data bit read recessive, as
the row tells or as LC holds it, damages the field (R12). A winner goes on to drive the shape byte (R8). -/
def State.endNumberField (s : State) (o : Opening) (read : BitVec 32) (mismatch : Bool) : State :=
  let damaged := o.numberDamaged || ((mismatch || s.lc.heldMismatch) && s.ct.role == .participant)
  let settled := settleNumber s.ct.role (s.sc.state == .listening) damaged s.ct.cycle (s.ct.proposal.getD 0) (~~~read)
  let winner := s.ct.role == .participant && !o.lost
  { s with ct := { s.ct with
             position := some 54
             opening := some { o with stage := .shape, numberDamaged := damaged, number := settled.1,
                                      slip := settled.2.1, backward := settled.2.2 } }
           lc := { s.lc.fieldEnd o.numberDamaged with
                             arbitration := .outside, heldMismatch := false
                             drive := if winner then .driving else .released
                             sending := if winner then .opening else .nothing } }

/-- R10, R60: the purge of a forward slip and its CYCLE_SLIP record. -/
def State.slipRecords (s : State) (o : Opening) : List EventRecord :=
  if o.slip = 0 then [] else [.cycleSlip o.number o.slip (s.cq.passed o.number).length]

/-- R9, R17, R146, R147: what SC does at opening ends: a station in LISTENING enters LEARNING; one whose LEARNING period
began with an earlier opening leaves it by its talk intent. -/
def State.learnAt (s : State) (role : OpeningRole) (backward : Bool) : State :=
  match s.sc.state with
  | .listening =>
    s.changeState .learning (match role with
      | .participant => .selfOpened
      | .observer | .idle => .adopted)
  | .learning =>
    if role = .participant ∧ backward = false then
      s.changeState (if s.sc.talkIntent then .claiming else .quiet) .learned
    else s
  | .config | .quiet | .claiming | .active | .leaving | .lineFault | .halted => s

/-- R9: CT at opening ends. -/
def CycleTimer.settle (c : CycleTimer) (number : Cycle) : CycleTimer :=
  { c with phase := .slots, cycle := number, history := .held, slotIndex := none, position := some 64,
           role := .participant, proposal := none, listenWindow := none, opening := none }

/-- R9, R10, R12, R60, R101: opening ends: the number settled, the queue purged on a slip, the deadlines checked, the
damaged opening counted, LEARNING begun or ended. CYCLE_SLIP and the COVERAGE records stand in an order left open
(R177). -/
def State.finishOpening (s : State) (o : Opening) : State :=
  let deadlines := sweep (OutEntry.atDeadline o.number) s.ob.entries
  let t := { s with ct := s.ct.settle o.number
                    lc := s.lc.release.fieldEnd o.shapeDamaged
                    slot := .blank
                    cq := if o.slip = 0 then s.cq else s.cq.purge o.number
                    ob := { s.ob with entries := deadlines.1 } }
  let u := t.offersUnordered (s.slipRecords o) deadlines.2
  let v := if o.numberDamaged || o.shapeDamaged then u.countDamagedOpening else u
  v.learnAt s.ct.role o.backward

/-- R8 to R12, R14, R15: the shape byte has been read. -/
def State.endShape (s : State) (o : Opening) (shape : Byte) : State :=
  if !o.shapeDamaged && !((s.sc.image.map fun im => im.shapeMatches shape).getD false) then
    (if o.numberDamaged then s.countDamagedOpening else s).enterHalted .shape
  else if o.backward then
    (s.resync .backward (.strayOpening .backward s.ct.cycle (some o.number))).finishOpening o
  else s.finishOpening o

/-- R15: the observed opening of a LISTENING station is damaged: nothing is adopted and the listen window starts anew. -/
def State.listenAgain (s : State) : State :=
  { s with ct := s.ct.wait s.listenTime }.countDamagedOpening

/-- R12, R14, R15: bad framing or a gap in the number field or in the shape byte. -/
def State.damageOpening (s : State) : State :=
  if s.ct.phase = .opening then
    match s.ct.opening with
    | none => s
    | some o =>
      match o.stage with
      | .pulse => s
      | .number =>
        if s.sc.state = .listening ∧ s.ct.role = .observer then s.listenAgain
        else { s with ct := { s.ct with opening := some { o with numberDamaged := true } } }
      | .shape =>
        if s.sc.state = .listening ∧ s.ct.role = .observer then s.listenAgain
        else { s with ct := { s.ct with opening := some { o with shapeDamaged := true } } }
  else s

/-- R13, R14: a stray opening: the station resynchronizes and observes, timed from the pulse's edge. An opening of its own
that this cuts short ends without *opening ends*. DESIGN CHOICE (log entry 39): was that opening damaged, it is counted
nowhere, since R12 gives the count a moment at *opening ends* and at a halt alone. -/
def State.strayPulse (s : State) (run : Nat) : State :=
  let t := s.resync .stray (.strayOpening .outsideWindow s.ct.cycle none)
  { t with ct := s.ct.observe run }

/-- R13, R14: the station is where a pulse from outside the window is a stray opening: in SLOTS, or in OPENING after its
own pulse has ended. -/
def State.strayable (s : State) : Bool :=
  s.sc.state.cyclesRun &&
    (s.ct.phase == .slots ||
      (s.ct.phase == .opening && (s.ct.opening.map fun o => o.stage != .pulse).getD false))

/-- R128, R13, R15: an opening pulse recognized at its end: the dominant run is over. In the window it is the pulse of
the opening this station takes part in; a LISTENING station in an opening takes no further one (log entry 17). -/
def State.recognizePulse (s : State) (run : Nat) (inWindow : Bool) : State :=
  if run < 11 ∨ 39 < run then s
  else if s.sc.state = .listening ∧ s.ct.phase = .waiting then
    { s with ct := s.ct.observe run, lc := s.lc.runEnd }
  else if s.strayable ∧ inWindow = false then
    let t := s.strayPulse run
    { t with lc := t.lc.runEnd }
  else if s.sc.state.onLine then { s with lc := s.lc.runEnd }
  else s

/-! ## Slot events (R3) -/

/-- R3, R67, R21, R107, R132: a slot begins, with the finding on a frame that ended in the guard before it (log entry
36): CT, then CG with the due records, then the claim policy or the own frame. CUE_FIRED records and NO_FREE_SLOT stand in
an order left open (R177). -/
def State.beginSlot (s : State) (slot : Nat) : State :=
  let t := { s with ct := { s.ct with slotIndex := some slot, position := some (s.slotStart slot) }
                    slot := { SlotReport.blank with finding := if s.slot.early then some .invalid else none }
                    lc := s.lc.turn slot }
  let work := t.slotWork slot
  if slot = 0 then
    let claim := work.1.claimPolicy
    claim.1.offersUnordered work.2 claim.2
  else
    let u := work.1.offers work.2
    if u.fixes slot then u.fixSlotFrame slot else u

/-- R3, R133: a slot's end: the slot is judged, no frame being received in it, or the judgement waits for a frame still
being received. Its arbitration field is past (R123). -/
def State.endSlot (s : State) (slot : Nat) (late : Option (List Byte)) : State :=
  let t := { s with ct := { s.ct with position := some (s.slotStart slot + frameRegion s.payload) } }
  match late with
  | some bs =>
    if s.listens then
      { t with slot := { s.slot with ended := true }
               lc := { s.lc.receive slot bs with arbitration := .outside } }
    else { t with lc := t.lc.endReception }.judge
  | none => { t with lc := t.lc.endReception }.judge

end Sys2Proof.Machine
end

