-- ==== Sys2Proof/Machine/Port.lean ====
section
/-! DEFINITION. The host port: transactions, what SDO presents, responses, and the checks and effects of each host command (Chapter 9), with the reset condition (section 8.2). -/

namespace Sys2Proof.Machine

/-! ## Responses and transactions (R159 to R163, R189) -/

/-- The bytes of a response (R189). -/
def Response.bytes (r : Response) : List Byte :=
  [r.sequence.setWidth 8, r.code, r.status.code] ++ be2 r.data.length ++ r.data

/-- R160: the first `n` bits SDO presents: the response from its first byte, then bytes of 0. -/
def Response.shifted (r : Response) (n : Nat) : List Bool :=
  ((r.bytes.flatMap byteBits) ++ List.replicate n false).take n

/-- R160: a SEL fall opens a transaction. -/
def HostPort.openTransaction (h : HostPort) : HostPort :=
  { h with transaction := .opened, input := [], inputTail := [], outByte := 0, outBit := 0 }

/-- R160, R161: the SEL rise after `bs` whole bytes and `tail` bits: the unfinished bits are discarded, and HP becomes
IDLE. That the whole bytes and the output place stand until the next SEL fall is the model's choice (log entry 35). -/
def HostPort.close (h : HostPort) (bs : List Byte) (tail : List Bool) : HostPort :=
  { h with transaction := .idle, input := bs, inputTail := [], outByte := bs.length, outBit := tail.length
           shiftedOut := h.response.shifted (8 * bs.length + tail.length) }

/-- R162: the SEL rise that ends an IGNORED transaction: the bits clocked in are discarded, SDO has presented the start
report, nothing is written. -/
def HostPort.endIgnored (h : HostPort) (bits : Nat) : HostPort :=
  { h with transaction := .idle, outByte := bits / 8, outBit := bits % 8, shiftedOut := h.response.shifted bits }

/-- R159, R161: a response written; the sequence number advances by 1 and the response carries it. -/
def State.respond (s : State) (code : Byte) (status : Status) (data : List Byte) : State :=
  { s with hp := { s.hp with
      sequence := s.hp.sequence + 1
      response := { sequence := s.hp.sequence + 1, code := code, status := status, data := data } } }

/-- A SEL rise: taken on an OPEN transaction with the port as the rise leaves it; on an IGNORED one it writes nothing
(R162); without a transaction, and while the part is held in reset, there is none to take (R141, R161). -/
def State.selRise (s : State) (bs : List Byte) (tail : List Bool) (taken : State → State) : State :=
  if s.held then s
  else
    match s.hp.transaction with
    | .idle => s
    | .ignored => { s with hp := s.hp.endIgnored (8 * bs.length + tail.length) }
    | .opened => taken { s with hp := s.hp.close bs tail }

/-- R161: a command with fewer bytes than its expected length is answered SHORT; else it is taken. -/
def State.command (s : State) (code : Byte) (expected : Nat) (rest : List Byte) (tail : List Bool)
    (taken : State → State) : State :=
  s.selRise (code :: rest) tail fun t =>
    if rest.length + 1 < expected then t.respond code .short (be2 (rest.length + 1) ++ be2 expected) else taken t

/-- R164: a configuration-gated command. -/
def State.gated (s : State) (code : Byte) (taken : State → State) : State :=
  if s.sc.image.isNone then s.respond code .notConfigured [] else taken s

/-! ## Resets (R141 to R143, R162) -/

/-- R142: every block at its reset value. The serial counter becomes 0 for POWER_ON and is kept otherwise (R85); the start
report carries the start reason and the counter (R143, R189), under the code 7Fh, or that of RESET. The waiting commands
and the numbering of the free values are the model's own and stay. The filtered level of each trigger input keeps its
value while the part is held, until `State.samplePins` at the end of the reset: the model's choice (log entry 38). -/
def State.resetCondition (s : State) (reason : StartReason) : State :=
  let counter : Serial := match reason with
    | .powerOn => 0
    | .pin | .command => s.ob.counter
  let code : Byte := match reason with
    | .powerOn | .pin => 0x7F
    | .command => 0x0F
  { State.reset with
    sc := { State.reset.sc with startReason := reason }
    hold := s.hold
    ob := { entries := [], counter := counter }
    hp := { State.reset.hp with
      response := { sequence := 0, code := code, status := .ok, data := reason.code :: be2 counter.toNat } }
    trig0 := { s.trig0 with binding := none, lastSerial := none }
    trig1 := { s.trig1 with binding := none, lastSerial := none }
    ticks := s.ticks
    choices := s.choices
    pending := s.pending }

/-- R182: when a reset ends, the filtered levels are those of the pins. -/
def State.samplePins (s : State) (trig0 trig1 : Level) : State :=
  { s with trig0 := { s.trig0 with level := trig0 }, trig1 := { s.trig1 with level := trig1 } }

/-! ## Read commands (R165, R173, R174) -/

/-- The own slots of GET_STATUS: four bytes, padded with FFh (R189). -/
def ownSlotBytes (slots : List Nat) : List Byte := ((slots.map byte) ++ [absent, absent, absent, absent]).take 4

/-- The 22 bytes of GET_STATUS (R165, R189). -/
def State.statusBytes (s : State) : List Byte :=
  [s.sc.state.code, s.sc.startReason.code, boolCode s.sc.image.isSome,
    (s.sc.image.map fun im => im.station.setWidth 8).getD absent,
    (s.sc.image.map fun im => im.role.code).getD absent,
    (s.sc.faultReason.map fun r => r.toReason.code).getD absent] ++
  be4 s.ct.cycle ++ [(s.ct.slotIndex.map byte).getD absent] ++ ownSlotBytes (s.st.heldSlots s.self) ++
  [byte s.cq.records.length, byte s.ob.entries.length, byte s.fb.staging.length, byte s.ev.records.length,
    byte s.ev.lost] ++
  be2 s.ob.counter.toNat

/-- A row of READ_SLOTS (R40, R189). -/
def SlotEntry.row (self : Station) (slot : Nat) (e : SlotEntry) : List Byte :=
  let failures := if e.view.owner = some self then byte e.failures else absent
  match e.view with
  | .free => [byte slot, 0, absent, 0, absent] ++ be4 0
  | .claimed z c => [byte slot, 1, z.setWidth 8, 0, failures] ++ be4 c
  | .held z n => [byte slot, 2, z.setWidth 8, byte n, failures] ++ be4 0

/-- The rows of a table whose first entry is that of slot `first`. -/
def slotRows (self : Station) : Nat → List SlotEntry → List Byte
  | _, [] => []
  | first, e :: es => e.row self first ++ slotRows self (first + 1) es

/-- The data of READ_SLOTS (R40, R189). -/
def State.slotBytes (s : State) : List Byte :=
  [byte s.heldCount, byte s.claimedCount, byte s.st.entries.length] ++ slotRows s.self 1 s.st.entries

/-- The 13 bytes of a roster record (R40, R189). -/
def SlotTable.peerBytes (t : SlotTable) (p : Peer) : List Byte :=
  [p.station.setWidth 8] ++ be4 (mapOf (t.heldSlots p.station)) ++ be4 p.joined ++ be4 p.lastHeard

/-- The data of READ_ROSTER (R40, R189). -/
def SlotTable.rosterBytes (t : SlotTable) : List Byte := [byte t.roster.length] ++ t.roster.flatMap t.peerBytes

/-- The 19 bytes of a cue record (R63, R189). -/
def CueRecord.bytes (r : CueRecord) : List Byte :=
  [r.id.originator.setWidth 8] ++ be2 r.id.serial.toNat ++
    [r.group, byte r.position, byte r.channel, r.action.code] ++ r.action.bytes ++ be4 r.dueCycle ++
    [byte r.dueSlot, boolCode r.replace] ++ be2 r.arrival.toNat

/-- The data of READ_QUEUE for place `i` (R63, R189). -/
def CueQueue.placeBytes (q : CueQueue) (i : Nat) : List Byte :=
  byte q.records.length :: (match q.records[i]? with
    | none => [0]
    | some r => 1 :: r.bytes)

/-- The data of READ_OUTBOX for place `i` (R105, R189). -/
def Outbox.placeBytes (o : Outbox) (i : Nat) : List Byte :=
  match o.entries[i]? with
  | none => [0]
  | some e => 1 :: e.bytes

/-- R174, R180: READ_EVENTS with a count from 1 to 4. -/
def State.takeEvents (s : State) (n : Nat) : State :=
  let out := s.ev.records.take n
  { s with ev := s.ev.take n }.respond 0x20 .ok
    ([byte out.length, byte s.ev.lost] ++ out.flatMap EventRecord.bytes)

/-! ## Station commands (R144, R145, R149, R151) -/

/-- R144: an image taken: the whole image, and each block's part of it. -/
def State.configureWith (s : State) (im : Image) : State :=
  { s with sc := { s.sc with image := some im }
           cg := s.cg.configure im
           cq := { s.cq with subscriptions := im.subscriptions }
           ev := s.ev.configure im }

/-- R166, R167: CONFIGURE. -/
def State.takeConfigure (s : State) (p : List Byte) : State :=
  if s.sc.state ≠ .config then s.respond 0x02 .wrongState []
  else
    match Image.ofBytes p with
    | .error e => s.respond 0x02 .badConfig [byte e.1, e.2]
    | .ok im => (s.configureWith im).respond 0x02 .ok []

/-- R145: the entry to LISTENING from CONFIG. -/
def State.startUp (s : State) (im : Image) : State :=
  { s with sc := { s.sc with talkIntent := im.role == Role.talker }
           st := { s.st with entries := freeEntries im.slots.toNat }
           ct := s.ct.wait s.listenTime }.changeState .listening .start

/-- R145, R168: START. -/
def State.takeStart (s : State) : State :=
  if s.sc.state ≠ .config then s.respond 0x03 .wrongState []
  else
    match s.sc.image with
    | none => s.respond 0x03 .notConfigured []
    | some im => (s.startUp im).respond 0x03 .ok [StationState.listening.code]

/-- R149, R104, R150: the effect of LEAVE, in the order of R157. -/
def State.leaveLine (s : State) : State :=
  let t := { s with sc := { s.sc with talkIntent := false } }.changeState .leaving .leave
  (t.sweepOutbox (OutEntry.atLeave t.ob)).checkCounts

/-- R149, R168: LEAVE. -/
def State.takeLeave (s : State) : State :=
  if s.sc.state.talking then
    let t := s.leaveLine
    t.respond 0x04 .ok [t.sc.state.code]
  else s.respond 0x04 .wrongState []

/-- R151, R168: JOIN. -/
def State.takeJoin (s : State) : State :=
  if s.sc.state ≠ .quiet then s.respond 0x05 .wrongState []
  else if (s.sc.image.map Image.role) = some Role.talker then
    ({ s with sc := { s.sc with talkIntent := true } }.changeState .claiming .join).respond 0x05 .ok
      [StationState.claiming.code]
  else s.respond 0x05 .notTalker []

/-! ## Cue and cancel commands (R86, R88 to R90) -/

/-- R86, R170: SUBMIT_CUE. -/
def State.takeSubmit (s : State) (p : List Byte) : State :=
  if !s.sc.state.talking then s.respond 0x10 .notTalking []
  else
    match CueTemplate.ofBytes s.slots p with
    | none => s.respond 0x10 .badCue []
    | some t =>
      if s.ob.full then s.respond 0x10 .outboxFull []
      else { s with ob := s.ob.submit t .host }.respond 0x10 .ok (be2 s.ob.nextSerial.toNat)

/-- R57, R90: a CANCEL entry created for a cue that needs a CANCEL item; the own queue is searched at once. -/
def State.cancelSent (s : State) (n : Serial) : State :=
  let id : CueId := { originator := s.self, serial := n }
  if s.cq.holds id then
    { s with cq := s.cq.remove (fun r => r.id == id) .cancelled, ob := s.ob.addCancel n (some .cancelled) }
  else { s with ob := s.ob.addCancel n none }

/-- R89: a CUE entry marked withdraw-pending, and its CANCEL entry. -/
def Outbox.pend (o : Outbox) (n : Serial) : Outbox :=
  Outbox.addCancel
    { o with entries := o.entries.map fun e =>
        match e.kind with
        | .cue t _ => if e.serial = n then { e with kind := .cue t true } else e
        | .cancel => e } n none

/-- R88 to R90, R171: CANCEL_CUE for a serial from 0 to 1023: the status and the effect. -/
def State.cancelSerial (s : State) (n : Serial) : Status × State :=
  let cue := s.ob.find .cue n
  if (cue.map OutEntry.state) = some .queued then
    (.withdrawn, s.sweepOutbox (onEntry .cue n OutEntry.withdraw))
  else if s.ob.cancelOpen n then (.ok, s)
  else if (cue.any fun e => e.state == .sending && e.send.isNone && !e.withdrawPending) then
    if s.ob.full then (.outboxFull, s) else (.cancelQueued, { s with ob := s.ob.pend n })
  else if !s.sc.state.talking then (.notTalking, s)
  else if s.ob.full then (.outboxFull, s)
  else (.ok, s.cancelSent n)

/-- R88, R171: CANCEL_CUE; the response carries the serial named, with every status. -/
def State.takeCancelCue (s : State) (p : List Byte) : State :=
  let n := word (byteAt p 0) (byteAt p 1)
  if 1023 < n then s.respond 0x11 .badSerial (be2 n)
  else
    let r := s.cancelSerial (BitVec.ofNat 10 n)
    r.2.respond 0x11 r.1 (be2 n)

/-! ## Channel and trigger commands (R76, R175, R183) -/

/-- R76: the action of a DRIVE_CHANNEL. -/
def driveAction (p : List Byte) : Option Action :=
  Action.ofBytes (byteAt p 1) (byteAt p 2) (byteAt p 3) (byteAt p 4) (byteAt p 5)

/-- RAMP and PULSE need slot beginnings (R76). -/
def Action.running : Action → Bool
  | .ramp _ _ | .pulse _ _ _ _ => true
  | .set _ | .release => false

/-- R76, R172: DRIVE_CHANNEL on a configured station. -/
def State.takeDrive (s : State) (p : List Byte) : State :=
  if h : (byteAt p 0).toNat < 8 then
    let c : Channel := ⟨(byteAt p 0).toNat, h⟩
    match driveAction p with
    | none => s.respond 0x30 .badCue []
    | some a =>
      if a.running && !s.sc.state.cyclesRun then s.respond 0x30 .noCycles []
      else { s with cg := s.cg.drive c a }.respond 0x30 .ok ((s.cg.drive c a).bytes c)
  else s.respond 0x30 .badIndex []

/-- The state of an input. -/
def State.trigger (s : State) (i : TrigInput) : TriggerState :=
  match i with
  | .trig0 => s.trig0
  | .trig1 => s.trig1

/-- The state of an input replaced. -/
def State.setTrigger (s : State) (i : TrigInput) (t : TriggerState) : State :=
  match i with
  | .trig0 => { s with trig0 := t }
  | .trig1 => { s with trig1 := t }

/-- R175, R183: BIND_TRIGGER on a configured station. -/
def State.takeBind (s : State) (p : List Byte) : State :=
  match TrigInput.ofCode (byteAt p 0).toNat, EdgeCode.ofCode (byteAt p 1).toNat with
  | some i, some edge =>
    match CueTemplate.ofBytes s.slots (p.drop 2) with
    | none => s.respond 0x31 .badCue []
    | some t =>
      (s.setTrigger i { s.trigger i with binding := some { edge := edge, template := t } }).respond 0x31 .ok []
  | _, _ => s.respond 0x31 .badIndex []

/-- R175, R183: UNBIND_TRIGGER on a configured station. -/
def State.takeUnbind (s : State) (p : List Byte) : State :=
  match TrigInput.ofCode (byteAt p 0).toNat with
  | none => s.respond 0x32 .badIndex []
  | some i => (s.setTrigger i { s.trigger i with binding := none }).respond 0x32 .ok []

/-! ## Trigger edges (R182, R184, R185) -/

/-- R182: the edge that changes the filtered level. -/
def edgeFrom : Level → Edge
  | .low => .rising
  | .high => .falling

/-- The other level. -/
def opposite : Level → Level
  | .low => .high
  | .high => .low

/-- R182: a binding names an edge. -/
def EdgeCode.names (c : EdgeCode) (e : Edge) : Bool :=
  match c, e with
  | .rising, .rising | .falling, .falling | .both, _ => true
  | .rising, .falling | .falling, .rising => false

/-- R184: the input's last entry is still QUEUED or SENDING. DEDUCED (log entry 41): SENDING on a retry counts too, as R184
names the state without its origin, although R185 has the next edge taken once the entry has completed a frame. -/
def State.triggerPending (s : State) (i : TrigInput) : Bool :=
  match (s.trigger i).lastSerial with
  | none => false
  | some n => s.ob.entries.any fun e =>
      e.named .cue n && e.source == .trigger i && (e.state == .queued || e.state == .sending)

/-- R184: the first check that fails for a presented edge. -/
def State.dropReason (s : State) (i : TrigInput) (t : CueTemplate) : Option DropReason :=
  if !s.sc.state.talking then some .notTalking
  else if s.triggerPending i then some .pending
  else if s.slots ≤ t.contents.dueSlot then some .badTemplate
  else if s.ob.full then some .outboxFull
  else none

/-- R184, R185: a presented edge is dropped or taken. -/
def State.present (s : State) (i : TrigInput) (edge : Edge) (t : CueTemplate) : State :=
  match s.dropReason i t with
  | some reason => s.offer (.triggerDropped i edge reason s.ct.cycle)
  | none =>
    (({ s with ob := s.ob.submit t (.trigger i) }).setTrigger i
      { s.trigger i with lastSerial := some s.ob.nextSerial }).offer
      (.triggerTaken i edge s.ob.nextSerial s.ct.cycle)

/-- R182: an edge recognized on an input. -/
def State.edge (s : State) (i : TrigInput) : State :=
  let before := s.trigger i
  let edge := edgeFrom before.level
  let t := s.setTrigger i { before with level := opposite before.level }
  match before.binding with
  | none => t
  | some b => if b.edge.names edge then t.present i edge b.template else t

end Sys2Proof.Machine
end

