-- ==== Sys2Proof/Machine/FrameRows.lean ====
section
/-! DEFINITION. The meanings of the frame rows: the outcomes of own frames (Chapter 6) and reception (Chapter 7). An outcome of a frame that is not in transmission changes nothing (log entry 5). -/

namespace Sys2Proof.Machine

/-- FRAME_COMPLETES (R117, R126). -/
def execFrameCompletes (s : State) : Result :=
  .next (match s.fb.transmission with
    | some { kind := .slot slot, cycleCheck := c, items := items } =>
      s.frameDone slot { kind := .slot slot, cycleCheck := c, items := items }
    | some { kind := .claim _, .. } | none => s)

/-- BIT_ERROR (R118, R125). -/
def execBitError (s : State) : Result :=
  .next (match s.fb.transmission with
    | some { kind := .slot slot, cycleCheck := c, items := items } =>
      s.frameBroken slot { kind := .slot slot, cycleCheck := c, items := items }
    | some { kind := .claim _, .. } | none => s)

/-- HEADER_ARBITRATION_LOST (R119, R31, R132). -/
def execHeaderArbitrationLost (s : State) : Result :=
  .next (match s.fb.transmission with
    | some { kind := .slot slot, cycleCheck := c, items := items } =>
      s.frameBeaten slot { kind := .slot slot, cycleCheck := c, items := items }
    | some { kind := .claim _, .. } | none => s)

/-- CLAIM_ARBITRATION_LOST (R116, R132): the row's bytes follow those read bit by bit (log entry 31). -/
def execClaimArbitrationLost (read : List Byte) (s : State) : Result :=
  .next (match s.fb.transmission with
    | some { kind := .claim _, .. } =>
      let t := s.countClaimLoss.endFrame .arbitrationLost
      { t with lc := t.lc.hearOn 0 s.lc.overheard read }
    | some { kind := .slot _, .. } | none => s)

/-- CLAIM_BIT_ERROR (R116, R125). -/
def execClaimBitError (s : State) : Result :=
  .next (match s.fb.transmission with
    | some { kind := .claim _, .. } => s.countOwnFailure.endFrame .bitError
    | some { kind := .slot _, .. } | none => s)

/-- CLAIM_COMPLETES (R116, R126): the claim is recorded at the slot's end (R24). -/
def execClaimCompletes (s : State) : Result :=
  .next (match s.fb.transmission with
    | some { kind := .claim r, .. } => s.endFrame (.claimCompleted r)
    | some { kind := .slot _, .. } | none => s)

/-- FRAME_RECEIVED (R132 to R139). A frame of the next slot that begins and ends in the guard has at most two bytes of
good framing, the guard being 20 bit times. -/
def execFrameReceived (bytes : List Byte) (framingError : Bool) (s : State) : Result :=
  .next (if s.listens then s.receive bytes framingError
    else if s.listensAhead && decide (bytes.length ≤ 2) then s.lostAhead else s)

/-- FRAME_CUT_OFF (R133, R134): the frame was still being received when its slot ended. -/
def execFrameCutOff (s : State) : Result := .next (if s.listens && s.slot.ended then s.frameLost else s)

/-- BYTE_GAP (R124): in an opening a gap damages the field, in a slot it ends the frame, in the guard before a slot that
slot's frame (R132). -/
def execByteGap (s : State) : Result :=
  .next (if s.ct.phase = .opening then s.damageOpening else if s.listens then s.frameLost
    else if s.listensAhead then s.lostAhead else s)

/-- STRAY_TRAFFIC (R132, R133). -/
def execStrayTraffic (s : State) : Result := .next (if s.countsStray then s.countFormat else s)

end Sys2Proof.Machine
end

