-- ==== Sys2Proof/Machine/LineRows.lean ====
section
/-! DEFINITION. The meanings of the line-fault rows (R128, R130, R131, R153, R154). -/

namespace Sys2Proof.Machine

/-- NO_ECHO (R130): only while the opening pulse is driven. The line was read recessive, which ends the run (R128). -/
def execNoEcho (s : State) : Result :=
  .next (match s.ct.opening with
    | none => s
    | some o =>
      if s.sc.state.onLine ∧ s.ct.phase = .opening ∧ s.ct.role = .participant ∧ o.stage = .pulse then
        let t := s.enterLineFault .noEcho
        { t with lc := t.lc.runEnd }
      else s)

/-- STUCK_LINE (R128, R131, R153, R154): in LINE_FAULT the record is reported again with its repeat mark set. -/
def execStuckLine (s : State) : Result :=
  .next (if s.sc.state.onLine then
      let t := s.enterLineFault .stuck
      { t with lc := { t.lc with dominantRun := 40 } }
    else if s.sc.state = .lineFault then
      { s with lc := { s.lc with dominantRun := 40, recessiveRun := 0 } }.offer
        (.lineFault .stuck .lineFault s.ct.cycle true)
    else s)

/-- LINE_RESTORED (R131, R154, R178). -/
def execLineRestored (s : State) : Result :=
  .next (if s.sc.state = .lineFault then
      let t := { s with sc := { s.sc with faultReason := none }
                        ct := s.ct.wait s.listenTime
                        lc := { s.lc with dominantRun := 0, recessiveRun := 64 } }
      (t.changeState .listening .restored).offer (.lineRestored s.ct.cycle s.ct.history)
    else s)

/-- FALLING_EDGE_IN_LINE_FAULT (R128, R131). -/
def execFallingEdgeInLineFault (s : State) : Result :=
  .next (if s.sc.state = .lineFault then { s with lc := { s.lc with dominantRun := 0, recessiveRun := 0 } } else s)

end Sys2Proof.Machine
end

