-- ==== Sys2Proof/Machine/OutputRows.lean ====
section
/-! DEFINITION. The meanings of the trigger and PWM rows (sections 10.5 and 4.6). -/

namespace Sys2Proof.Machine

/-- TRIGGER_EDGE (R182, R184, R185); no edge is taken while the part is held in reset (R141). -/
def execTriggerEdge (input : TrigInput) (s : State) : Result := .next (if s.held then s else s.edge input)

/-- PWM_PERIOD_START (R80, R81); while the part is held in reset the outputs stay low (R141). -/
def execPwmPeriodStart (s : State) : Result := .next (if s.held then s else { s with cg := s.cg.periodStart })

end Sys2Proof.Machine
end

