-- ==== Sys2Proof/Machine/PortRows.lean ====
section
/-! DEFINITION. The meanings of the host-port rows: the transaction events and the host commands (Chapter 9), each a SEL rise whose whole bytes are the command code and `rest`. -/

namespace Sys2Proof.Machine

/-- TRANSACTION_OPEN (R160): a SEL fall taken while HP is IDLE; none is taken while the part is held in reset (R141). -/
def execTransactionOpen (s : State) : Result :=
  .next (if !s.held && s.hp.transaction == .idle then { s with hp := s.hp.openTransaction } else s)

/-- EMPTY_TRANSACTION (R161): no whole byte: nothing is taken, buffer and sequence number unchanged. -/
def execEmptyTransaction (tail : List Bool) (s : State) : Result :=
  .next (s.selRise [] tail fun t => t)

/-- UNKNOWN_COMMAND (R161). -/
def execUnknownCommand (code : Byte) (rest : List Byte) (tail : List Bool) (s : State) : Result :=
  .next (s.selRise (code :: rest) tail fun t => t.respond code .unknownCommand [])

/-- IGNORED_TRANSACTION_END (R162); a transaction that is not IGNORED is not ended by it. -/
def execIgnoredTransactionEnd (bytes : List Byte) (tail : List Bool) (s : State) : Result :=
  .next (if !s.held && s.hp.transaction == .ignored then s.selRise bytes tail fun t => t else s)

/-- NOP (R164). -/
def execNop (rest : List Byte) (tail : List Bool) (s : State) : Result :=
  .next (s.command 0x00 1 rest tail fun t => t.respond 0x00 .ok [])

/-- GET_STATUS (R165). -/
def execGetStatus (rest : List Byte) (tail : List Bool) (s : State) : Result :=
  .next (s.command 0x01 1 rest tail fun t => t.respond 0x01 .ok t.statusBytes)

/-- CONFIGURE (R144, R166, R167). -/
def execConfigure (rest : List Byte) (tail : List Bool) (s : State) : Result :=
  .next (s.command 0x02 (33 + 5 * announced rest) rest tail fun t => t.takeConfigure rest)

/-- START (R145, R168). -/
def execStart (rest : List Byte) (tail : List Bool) (s : State) : Result :=
  .next (s.command 0x03 1 rest tail State.takeStart)

/-- LEAVE (R149, R168). -/
def execLeave (rest : List Byte) (tail : List Bool) (s : State) : Result :=
  .next (s.command 0x04 1 rest tail State.takeLeave)

/-- JOIN (R151, R168). -/
def execJoin (rest : List Byte) (tail : List Bool) (s : State) : Result :=
  .next (s.command 0x05 1 rest tail State.takeJoin)

/-- SUBMIT_CUE (R86, R170). -/
def execSubmitCue (rest : List Byte) (tail : List Bool) (s : State) : Result :=
  .next (s.command 0x10 12 rest tail fun t => t.takeSubmit rest)

/-- CANCEL_CUE (R88 to R90, R171). -/
def execCancelCue (rest : List Byte) (tail : List Bool) (s : State) : Result :=
  .next (s.command 0x11 3 rest tail fun t => t.takeCancelCue rest)

/-- READ_EVENTS (R174, R180). -/
def execReadEvents (rest : List Byte) (tail : List Bool) (s : State) : Result :=
  .next (s.command 0x20 2 rest tail fun t => t.gated 0x20 fun u =>
    if 1 ≤ (byteAt rest 0).toNat ∧ (byteAt rest 0).toNat ≤ 4 then u.takeEvents (byteAt rest 0).toNat
    else u.respond 0x20 .badIndex [])

/-- READ_SLOTS (R40, R173). -/
def execReadSlots (rest : List Byte) (tail : List Bool) (s : State) : Result :=
  .next (s.command 0x21 1 rest tail fun t => t.gated 0x21 fun u => u.respond 0x21 .ok u.slotBytes)

/-- READ_ROSTER (R40, R173). -/
def execReadRoster (rest : List Byte) (tail : List Bool) (s : State) : Result :=
  .next (s.command 0x22 1 rest tail fun t => t.gated 0x22 fun u => u.respond 0x22 .ok u.st.rosterBytes)

/-- READ_QUEUE (R63, R173). -/
def execReadQueue (rest : List Byte) (tail : List Bool) (s : State) : Result :=
  .next (s.command 0x23 2 rest tail fun t => t.gated 0x23 fun u =>
    if 63 < (byteAt rest 0).toNat then u.respond 0x23 .badIndex []
    else u.respond 0x23 .ok (u.cq.placeBytes (byteAt rest 0).toNat))

/-- READ_OUTBOX (R105, R173). -/
def execReadOutbox (rest : List Byte) (tail : List Bool) (s : State) : Result :=
  .next (s.command 0x24 2 rest tail fun t => t.gated 0x24 fun u =>
    if 15 < (byteAt rest 0).toNat then u.respond 0x24 .badIndex []
    else u.respond 0x24 .ok (u.ob.placeBytes (byteAt rest 0).toNat))

/-- READ_CHANNEL (R82, R173). -/
def execReadChannel (rest : List Byte) (tail : List Bool) (s : State) : Result :=
  .next (s.command 0x25 2 rest tail fun t => t.gated 0x25 fun u =>
    if h : (byteAt rest 0).toNat < 8 then u.respond 0x25 .ok (u.cg.bytes ⟨(byteAt rest 0).toNat, h⟩)
    else u.respond 0x25 .badIndex [])

/-- READ_COUNTERS (R174, R181). -/
def execReadCounters (rest : List Byte) (tail : List Bool) (s : State) : Result :=
  .next (s.command 0x26 1 rest tail fun t => t.gated 0x26 fun u =>
    { u with counters := .zero }.respond 0x26 .ok u.counters.bytes)

/-- DRIVE_CHANNEL (R76, R172). -/
def execDriveChannel (rest : List Byte) (tail : List Bool) (s : State) : Result :=
  .next (s.command 0x30 7 rest tail fun t => t.gated 0x30 fun u => u.takeDrive rest)

/-- BIND_TRIGGER (R175, R183). -/
def execBindTrigger (rest : List Byte) (tail : List Bool) (s : State) : Result :=
  .next (s.command 0x31 14 rest tail fun t => t.gated 0x31 fun u => u.takeBind rest)

/-- UNBIND_TRIGGER (R175, R183). -/
def execUnbindTrigger (rest : List Byte) (tail : List Bool) (s : State) : Result :=
  .next (s.command 0x32 2 rest tail fun t => t.gated 0x32 fun u => u.takeUnbind rest)

end Sys2Proof.Machine
end

