-- ==== Sys2Proof/Machine/ResetRows.lean ====
section
/-! DEFINITION. The meanings of the reset rows (section 8.2). -/

namespace Sys2Proof.Machine

/-- POWER_ON_RESET (R141 to R143): the reset condition at the moment the part first enters reset. A part that RESET_N
holds already stays as it is, but its start reason becomes POWER_ON, and with it the serial counter 0 (log entry 3). -/
def execPowerOnReset (s : State) : Result :=
  .next { s.resetCondition .powerOn with hold := { s.hold with powerOn := true } }

/-- PIN_RESET (R141): on a part that is already held nothing further changes. -/
def execPinReset (s : State) : Result :=
  .next (if s.held then { s with hold := { s.hold with pin := true } }
    else { s.resetCondition .pin with hold := { s.hold with pin := true } })

/-- RESET_RELEASED (R141, R159, R162, R182): the last source releases the part. -/
def execResetReleased (trig0 trig1 : Level) (selLow : Bool) (s : State) : Result :=
  .next (if s.held then
      { s.samplePins trig0 trig1 with
        hold := { powerOn := false, pin := false }
        hp := { s.hp with transaction := if selLow then .ignored else .idle } }
    else s)

/-- RESET (R141, R162, R169): taken in every state; its response is the start report. -/
def execReset (rest : List Byte) (tail : List Bool) (trig0 trig1 : Level) (s : State) : Result :=
  .next (s.command 0x0F 1 rest tail fun t =>
    let r := (t.resetCondition .command).samplePins trig0 trig1
    { r with hp := { r.hp with shiftedOut := t.hp.shiftedOut } })

end Sys2Proof.Machine
end

