-- ==== Sys2Proof/Machine/TimerRows.lean ====
section
/-! DEFINITION. The meanings of the cycle timer's rows: the opening and the slot events (Chapter 1). An event that the timer does not produce in the state at hand changes nothing (log entry 5). -/

namespace Sys2Proof.Machine

/-- LISTEN_WINDOW_EXPIRY (R16). -/
def execListenWindowExpiry (s : State) : Result :=
  .next (if s.sc.state = .listening ∧ s.ct.phase = .waiting then
      { s with ct := s.ct.participate s.ct.selfProposal 0, lc := s.lc.pulse 0 }
    else s)

/-- OPENING_BEGINS (R4). -/
def execOpeningBegins (s : State) : Result := .next (if s.windowOpen then s.beginOpening 0 else s)

/-- DEFERRED_OPENING_EDGE (R129): the slot S − 1 frame still being received in the window is invalid and the slot is
judged on that (R133); the opening began 10 bit times ago. -/
def execDeferredOpeningEdge (s : State) : Result :=
  .next (if s.listens && s.slot.ended && s.ct.slotIndex == some (s.slots - 1) then
      ((s.countFormat.note .invalid).judge).beginOpening 10
    else s)

/-- OPENING_PULSE_RELEASE (R5, R128): the pulse's 12 bit times are over; the number field follows after the gap. The
dominant run goes on until the line is read recessive, which OPENING_PULSE tells. -/
def execOpeningPulseRelease (s : State) : Result :=
  .next (match s.ct.opening with
    | none => s
    | some o =>
      if s.ct.phase = .opening ∧ s.ct.role = .participant ∧ o.stage = .pulse then
        { s with ct := { s.ct with position := some 12, opening := some { o with stage := .number } }
                 lc := s.lc.pulseEnd (s.ct.position.getD 0) }
      else s)

/-- NUMBER_FIELD_ARBITRATION_LOSS (R6). -/
def execNumberFieldArbitrationLoss (s : State) : Result :=
  .next (match s.ct.opening with
    | none => s
    | some o =>
      if s.ct.phase = .opening ∧ s.ct.role = .participant ∧ o.stage = .number then
        { s with ct := { s.ct with opening := some { o with lost := true } }
                 lc := { s.lc with arbitration := .lost, drive := .released } }
      else s)

/-- NUMBER_FIELD_END (R6, R7, R12, R14, R16). -/
def execNumberFieldEnd (read : BitVec 32) (mismatch : Bool) (s : State) : Result :=
  .next (match s.ct.opening with
    | none => s
    | some o =>
      if s.ct.phase = .opening ∧ o.stage = .number then s.endNumberField o read mismatch else s)

/-- OPENING_ENDS (R8 to R12, R14, R15). -/
def execOpeningEnds (shape : Byte) (s : State) : Result :=
  .next (match s.ct.opening with
    | none => s
    | some o => if s.ct.phase = .opening ∧ o.stage = .shape then s.endShape o shape else s)

/-- OPENING_FRAMING_ERROR (R12, R14, R15). -/
def execOpeningFramingError (s : State) : Result := .next s.damageOpening

/-- OPENING_PULSE (R128, R13, R15). -/
def execOpeningPulse (run : Nat) (inWindow : Bool) (s : State) : Result := .next (s.recognizePulse run inWindow)

/-- SLOT_BEGINS (R3, R21, R67, R107). -/
def execSlotBegins (s : State) : Result :=
  .next (match s.nextSlot with
    | none => s
    | some slot => s.beginSlot slot)

/-- SLOT_ENDS (R3, R24, R26 to R30, R133). -/
def execSlotEnds (late : Option (List Byte)) (s : State) : Result :=
  .next (match s.ct.slotIndex with
    | none => s
    | some slot =>
      if s.sc.state.cyclesRun ∧ s.ct.phase = .slots ∧ s.slot.judged = false ∧ s.fb.transmission = none then
        s.endSlot slot late
      else s)

end Sys2Proof.Machine
end

