-- ==== Sys2Proof/Machine/Dispatch.lean ====
section
/-! DEFINITION. The dispatch: one arm per command, each one call of its meaning. -/

namespace Sys2Proof.Machine

/-- The effect of a command on everything but the queue of waiting commands. -/
def exec (i : Instr) (s : State) : Host.Outcome State Fault Refusal :=
  match i with
  | .powerOnReset => Sys2Proof.Machine.execPowerOnReset s
  | .pinReset => Sys2Proof.Machine.execPinReset s
  | .resetReleased trig0 trig1 selLow => Sys2Proof.Machine.execResetReleased trig0 trig1 selLow s
  | .transactionOpen => Sys2Proof.Machine.execTransactionOpen s
  | .emptyTransaction tail => Sys2Proof.Machine.execEmptyTransaction tail s
  | .unknownCommand code rest tail => Sys2Proof.Machine.execUnknownCommand code rest tail s
  | .nop rest tail => Sys2Proof.Machine.execNop rest tail s
  | .getStatus rest tail => Sys2Proof.Machine.execGetStatus rest tail s
  | .configure rest tail => Sys2Proof.Machine.execConfigure rest tail s
  | .start rest tail => Sys2Proof.Machine.execStart rest tail s
  | .leave rest tail => Sys2Proof.Machine.execLeave rest tail s
  | .join rest tail => Sys2Proof.Machine.execJoin rest tail s
  | .reset rest tail trig0 trig1 => Sys2Proof.Machine.execReset rest tail trig0 trig1 s
  | .submitCue rest tail => Sys2Proof.Machine.execSubmitCue rest tail s
  | .cancelCue rest tail => Sys2Proof.Machine.execCancelCue rest tail s
  | .readEvents rest tail => Sys2Proof.Machine.execReadEvents rest tail s
  | .readSlots rest tail => Sys2Proof.Machine.execReadSlots rest tail s
  | .readRoster rest tail => Sys2Proof.Machine.execReadRoster rest tail s
  | .readQueue rest tail => Sys2Proof.Machine.execReadQueue rest tail s
  | .readOutbox rest tail => Sys2Proof.Machine.execReadOutbox rest tail s
  | .readChannel rest tail => Sys2Proof.Machine.execReadChannel rest tail s
  | .readCounters rest tail => Sys2Proof.Machine.execReadCounters rest tail s
  | .driveChannel rest tail => Sys2Proof.Machine.execDriveChannel rest tail s
  | .bindTrigger rest tail => Sys2Proof.Machine.execBindTrigger rest tail s
  | .unbindTrigger rest tail => Sys2Proof.Machine.execUnbindTrigger rest tail s
  | .triggerEdge input => Sys2Proof.Machine.execTriggerEdge input s
  | .pwmPeriodStart => Sys2Proof.Machine.execPwmPeriodStart s
  | .listenWindowExpiry => Sys2Proof.Machine.execListenWindowExpiry s
  | .openingBegins => Sys2Proof.Machine.execOpeningBegins s
  | .deferredOpeningEdge => Sys2Proof.Machine.execDeferredOpeningEdge s
  | .openingPulseRelease => Sys2Proof.Machine.execOpeningPulseRelease s
  | .noEcho => Sys2Proof.Machine.execNoEcho s
  | .openingPulse run inWindow => Sys2Proof.Machine.execOpeningPulse run inWindow s
  | .numberFieldEnd read mismatch => Sys2Proof.Machine.execNumberFieldEnd read mismatch s
  | .openingEnds shape => Sys2Proof.Machine.execOpeningEnds shape s
  | .slotBegins => Sys2Proof.Machine.execSlotBegins s
  | .slotEnds late => Sys2Proof.Machine.execSlotEnds late s
  | .frameCompletes => Sys2Proof.Machine.execFrameCompletes s
  | .bitError => Sys2Proof.Machine.execBitError s
  | .headerArbitrationLost => Sys2Proof.Machine.execHeaderArbitrationLost s
  | .claimArbitrationLost read => Sys2Proof.Machine.execClaimArbitrationLost read s
  | .claimBitError => Sys2Proof.Machine.execClaimBitError s
  | .claimCompletes => Sys2Proof.Machine.execClaimCompletes s
  | .frameReceived bytes framingError => Sys2Proof.Machine.execFrameReceived bytes framingError s
  | .frameCutOff => Sys2Proof.Machine.execFrameCutOff s
  | .byteGap => Sys2Proof.Machine.execByteGap s
  | .strayTraffic => Sys2Proof.Machine.execStrayTraffic s
  | .stuckLine => Sys2Proof.Machine.execStuckLine s
  | .lineRestored => Sys2Proof.Machine.execLineRestored s
  | .ignoredTransactionEnd bytes tail => Sys2Proof.Machine.execIgnoredTransactionEnd bytes tail s
  | .fallingEdgeInLineFault => Sys2Proof.Machine.execFallingEdgeInLineFault s
  | .numberFieldArbitrationLoss => Sys2Proof.Machine.execNumberFieldArbitrationLoss s
  | .openingFramingError => Sys2Proof.Machine.execOpeningFramingError s

end Sys2Proof.Machine
end

