-- ==== Sys2Proof/Machine/Line.lean ====
section
/-! DEFINITION. The line bit by bit: what LC sends in each bit time, how it compares it, how it reads bytes and assembles a frame, and the bit time that passes with no command waiting (sections 7.1, 7.2 and 7.5). -/

namespace Sys2Proof.Machine

/-! ## Sending (R5, R6, R8, R125, R126) -/

/-- One bit that this station sends. `data` marks a data bit, and `covered` holds the data bit of a byte that the CRC
covers (R127). -/
structure SentBit where
  dominant : Bool
  data : Bool
  covered : Option Bool
  deriving DecidableEq, Repr

/-- Whether the q-th bit of bytes sent back to back is a data bit (R124). -/
def isDataBit (q : Nat) : Bool := decide (1 ≤ q % 10 ∧ q % 10 ≤ 8)

/-- The level of the q-th bit of bytes sent back to back, true dominant (R124). -/
def levelAt (bytes : List Byte) (q : Nat) : Option Bool := (bytes[q / 10]?).bind fun b => (lineBits b)[q % 10]?

/-- The q-th bit of an own frame; the CRC covers all bytes but the last two. -/
def frameBit (bytes : List Byte) (q : Nat) : Option SentBit :=
  (levelAt bytes q).map fun d =>
    { dominant := d, data := isDataBit q
      covered := if isDataBit q && decide (q / 10 + 2 < bytes.length) then some (!d) else none }

/-- R6, R125: place `p` of the cycle lies in the arbitration field on the line: the number field of an opening, from its
first start bit to its last stop bit; in a slot, from the first data bit of the frame to the last one of its first byte,
in slot 0 of its second. -/
def State.inField (s : State) (p : Nat) : Bool :=
  match s.ct.phase with
  | .opening => decide (14 ≤ p ∧ p < 54)
  | .slots =>
    (s.ct.slotIndex.map fun k =>
      decide (s.slotStart k + 1 ≤ p ∧ p < s.slotStart k + if k = 0 then 19 else 9)).getD false
  | .stopped | .waiting => false

/-- The bit of an opening that this station sends `p` bit times after its beginning (section 1.1): the pulse, its
proposal's complement, the shape byte. One that has lost the number field sends its start bits alone (R125). -/
def Opening.bit (o : Opening) (proposal : Cycle) (shape : Byte) (p : Nat) : Option SentBit :=
  match o.stage with
  | .pulse => if p < 12 then some { dominant := true, data := false, covered := none } else none
  | .number =>
    if p < 14 then none
    else (levelAt (numberField proposal) (p - 14)).map fun d =>
      { dominant := d && !(o.lost && isDataBit (p - 14)), data := isDataBit (p - 14), covered := none }
  | .shape =>
    if p < 54 then none
    else (levelAt [shape] (p - 54)).map fun d =>
      { dominant := d, data := isDataBit (p - 54), covered := none }

/-- The bit this station sends at place `p` of the cycle. -/
def State.sentAt (s : State) (p : Nat) : Option SentBit :=
  match s.lc.sending with
  | .nothing => none
  | .opening =>
    s.ct.opening.bind fun o => o.bit (s.ct.proposal.getD 0) ((s.sc.image.map Image.shapeByte).getD 0) p
  | .claim | .slot =>
    s.fb.transmission.bind fun f => s.ct.slotIndex.bind fun k =>
      if p < s.slotStart k then none else frameBit (f.bytes s.self) (p - s.slotStart k)

/-- What the comparison of a bit sent with the level read gives (R125). -/
inductive BitOutcome where
  | sent | arbitrationLoss | heldMismatch | bitError
  deriving DecidableEq, Repr

/-- R125: the table of outcomes; `arbitrates` marks a data bit of an arbitration field. -/
def compareBit (sent read arbitrates : Bool) : BitOutcome :=
  if sent = read then .sent
  else if arbitrates then (if sent then .heldMismatch else .arbitrationLoss)
  else .bitError

/-- A sent bit has been read back: a dominant data bit of an arbitration field read recessive is held, and a bit that
the CRC covers enters the accumulator. A loss and a bit error come as their rows (log entry 18). -/
def LineController.sendBit (l : LineController) (b : Option SentBit) (inField read : Bool) : LineController :=
  match b with
  | none => l
  | some b =>
    { l with
      heldMismatch := l.heldMismatch || compareBit b.dominant read (inField && b.data) == .heldMismatch
      crc := match b.covered with
        | some v => l.crc.map fun acc => crcBit acc v
        | none => l.crc }

/-- The line is driven for the bit that begins. In an arbitration field a station that sends stands inside it, or has
lost it; outside the field it has no standing (R123). -/
def LineController.startBit (l : LineController) (b : Option SentBit) (inField : Bool) : LineController :=
  { l with
    drive := if b.any SentBit.dominant then .driving else .released
    arbitration :=
      if !inField then .outside
      else if l.arbitration = .lost then .lost
      else if b.isSome then .inside
      else .outside }

/-! ## Reading (R124, R132, R133) -/

/-- R124: a falling edge that LC takes as a byte start: no byte is being read and the line was recessive. DESIGN CHOICE
(log entry 40): a line that is dominant when LC begins to watch it, at START, gives LC a byte start edge at the first
level read. -/
def LineController.byteStart (l : LineController) (read : Bool) : Bool :=
  read && l.reading.isNone && l.dominantRun == 0

/-- One level sampled: a byte is begun at a falling edge, and delivered at its tenth sample. -/
def LineController.readLevel (l : LineController) (read : Bool) : LineController × Option ByteRead :=
  match l.reading with
  | none => (if l.byteStart read then { l with reading := some [read] } else l, none)
  | some levels =>
    if levels.length < 9 then ({ l with reading := some (levels ++ [read]) }, none)
    else ({ l with reading := none }, readByte (levels ++ [read]))

/-- R133: a delivered byte joins a record until the record's frame has ended; bad framing sets its mark. -/
def Reception.take (r : Reception) (payload : Nat) (b : ByteRead) : Reception :=
  if r.framing || overlong r.slot payload r.bytes || r.expected == some r.bytes.length then r
  else if b.framing then { r with framing := true }
  else .ofBytes r.slot (r.bytes ++ [b.value])

/-- A delivered byte goes to the reception record (R133). -/
def LineController.takeByte (l : LineController) (payload : Nat) (b : ByteRead) : LineController :=
  match l.reception with
  | none => l
  | some r => l.record (r.take payload b)

/-- R132: what LC overhears of slot `slot` while this station sends: a byte start edge is the frame's first unless one
came before it, in the guard or in the slot, and a delivered byte joins those from that edge on. -/
def LineController.overhear (l : LineController) (slot payload : Nat) (start : Bool) (delivered : Option ByteRead) :
    LineController :=
  { l with overheard := match delivered with
      | some b => l.overheard.map fun r => r.take payload b
      | none => if start then some (l.overheard.getD (.ofBytes slot [])) else l.overheard }

/-- R132: the slot whose frame a byte start edge begins now: the next slot in the guard before it, the slot in progress
up to 20 bit times after its beginning; none once that slot's frame has been taken, and none in a slot in which this
station sends or has sent. -/
def State.frameStart (s : State) : Option Nat :=
  if s.sc.state.cyclesRun && s.ct.phase == .slots && s.fb.transmission.isNone && s.lc.reception.isNone then
    match s.nextSlot with
    | some k => if s.slot.early then none else some k
    | none =>
      s.ct.slotIndex.bind fun k => s.ct.position.bind fun p =>
        if !s.slot.judged && !s.slot.ended && s.slot.finding.isNone && s.slot.own == .silent
            && decide (p ≤ s.slotStart k + 20) then some k
        else none
  else none

/-- LC has read one level: a byte may have been delivered, or a reception record opened at a byte start edge. -/
def State.assemble (s : State) (read : Bool) : LineController :=
  let heard := s.lc.readLevel read
  match heard.2 with
  | some b => heard.1.takeByte s.payload b
  | none =>
    if s.lc.byteStart read then
      match s.frameStart with
      | some k => heard.1.receive k []
      | none => heard.1
    else heard.1

/-- LC reads one level, and while this station sends its own frame it overhears the line as well. -/
def State.hear (s : State) (read : Bool) : LineController :=
  match s.fb.transmission, s.ct.slotIndex with
  | some _, some slot =>
    (s.assemble read).overhear slot s.payload (s.lc.byteStart read) (s.lc.readLevel read).2
  | _, _ => s.assemble read

/-! ## The bit time that passes with no command waiting -/

/-- R123, R128, R131: one more bit time of the level read. DESIGN CHOICE (log entry 40): of a dominant level that stood
before LC began to watch, the run counts the bit times from that moment, its falling edge not having been seen. -/
def LineController.sample (l : LineController) (dominant : Bool) : LineController :=
  if dominant then { l with dominantRun := min 40 (l.dominantRun + 1), recessiveRun := 0 }
  else { l with dominantRun := 0, recessiveRun := min 64 (l.recessiveRun + 1) }

/-- LC in one bit time with the level read on the line: it reads, compares what it sends, starts the next bit and times
the run; in LINE_FAULT it times the runs alone, and in CONFIG and HALTED it watches nothing (R123). -/
def State.lineBit (s : State) (read : Bool) : LineController :=
  if s.sc.state.onLine then
    match s.ct.position with
    | none => (s.hear read).sample read
    | some p =>
      (((s.hear read).sendBit (s.sentAt p) (s.inField p) read).startBit (s.sentAt (p + 1)) (s.inField (p + 1))).sample read
  else if s.sc.state = .lineFault then s.lc.sample read
  else s.lc

/-- DESIGN CHOICE (log entry 4): a step on an empty queue is one bit time: CT's position advances, the listen window
counts down, and LC sends and reads one bit, the level of the line being a free value. No event is raised by it: the
events come as commands. -/
def State.tick (s : State) : State :=
  { s with ct := { s.ct with position := s.ct.position.map fun p => p + 1
                             listenWindow := s.ct.listenWindow.map fun w => w - 1 }
           lc := s.lineBit (Config.lineDominant s.ticks)
           ticks := s.ticks + 1 }

end Sys2Proof.Machine
end

