-- ==== Sys2Proof/Safety.lean ====
section
/-! DEFINITION. What counts as a lawful state, in the terms the statements use: the laws the manual states of the station's collections, each a condition on one state, and the state that a host-port row leaves. -/

namespace Sys2Proof.Machine

/-! ## The host port (R160, R161) -/

/-- A transaction is OPEN and the part is not held in reset: the next SEL rise takes what was clocked in. -/
abbrev State.Serving (s : State) : Prop := s.held = false ∧ s.hp.transaction = .opened

/-- The state as the SEL rise leaves it when `bs` whole bytes and `tail` unfinished bits were clocked in and nothing was
answered yet. -/
def State.clockedIn (s : State) (bs : List Byte) (tail : List Bool) : State :=
  { s with hp := { s.hp with transaction := .idle, input := bs, inputTail := [], outByte := bs.length,
                             outBit := tail.length, shiftedOut := s.hp.response.shifted (8 * bs.length + tail.length) } }

/-- The state with a response written: the sequence number one further, and carried by the response (R159, R189). -/
def State.answered (s : State) (code : Byte) (status : Status) (data : List Byte) : State :=
  { s with hp := { s.hp with
      sequence := s.hp.sequence + 1
      response := { sequence := s.hp.sequence + 1, code := code, status := status, data := data } } }

/-! ## The event queue (R176, R177, R179) -/

/-- At most 32 records, a lost count and a watermark in range, and ATN exactly as R179 says. -/
structure EventQueue.Lawful (q : EventQueue) : Prop where
  fits : q.records.length ≤ 32
  lost : q.lost ≤ 255
  watermark : 1 ≤ q.watermark ∧ q.watermark ≤ 32
  atn : q.atn = true ↔ q.watermark ≤ q.records.length ∨ ∃ r ∈ q.records, q.urgent.getLsbD r.kindCode = true

/-- R181: every counter is a whole number from 0 to 65535. -/
structure Counters.Lawful (c : Counters) : Prop where
  crcErrors : c.crcErrors ≤ 65535
  formatErrors : c.formatErrors ≤ 65535
  cycleCheck : c.cycleCheck ≤ 65535
  acksDropped : c.acksDropped ≤ 65535
  strayAcks : c.strayAcks ≤ 65535
  damagedOpenings : c.damagedOpenings ≤ 65535
  ownFailures : c.ownFailures ≤ 65535
  claimLosses : c.claimLosses ≤ 65535

/-! ## The cue queue (R42, R43, R45) -/

/-- At most 64 records and 32 retired entries, no id twice in either or in both, and at most 8 subscriptions, no group
twice. -/
structure CueQueue.Lawful (q : CueQueue) : Prop where
  fits : q.records.length ≤ 64
  ids : (q.records.map CueRecord.id).Nodup
  retiredFits : q.retired.length ≤ 32
  retiredIds : (q.retired.map Retired.id).Nodup
  apart : ∀ r ∈ q.records, ∀ e ∈ q.retired, e.id ≠ r.id
  subscriptions : q.subscriptions.length ≤ 8
  groups : (q.subscriptions.map Subscription.group).Nodup

/-! ## The outbox (R84) -/

/-- At most 16 entries, and no two of one kind with the same serial. -/
structure Outbox.Lawful (o : Outbox) : Prop where
  fits : o.entries.length ≤ 16
  distinct : (o.entries.map fun e => (e.cueKind, e.serial)).Nodup

/-! ## The ack staging list (R106, R113, R114) -/

/-- At most 32 entries, at most one for each id and class, none on this station's own cues, and none in a state that
stages no verdicts. -/
structure State.StagingLawful (s : State) : Prop where
  fits : s.fb.staging.length ≤ 32
  distinct : (s.fb.staging.map fun e => (e.id, e.verdict.kind)).Nodup
  foreign : ∀ e ∈ s.fb.staging, e.id.originator ≠ s.self
  standing : s.sc.state.stages = false → s.fb.staging = []

/-! ## The channels (R65, R67, R86) -/

/-- R65: a RAMP has its step below its length, a PULSE has a slot left in its phase and lengths of at least 1. -/
def ChanState.Lawful : ChanState → Prop
  | .idle | .hold _ => True
  | .ramp _ _ _ n k => k.toNat < n.toNat
  | .pulse _ a b _ _ left => 1 ≤ a.toNat ∧ 1 ≤ b.toNat ∧ 1 ≤ left.toNat

/-- A channel that no slot beginning advances. -/
def ChanState.AtRest : ChanState → Prop
  | .idle | .hold _ => True
  | .ramp _ _ _ _ _ | .pulse _ _ _ _ _ _ => False

/-- R86: the params that an action uses are in range. -/
def Action.Lawful : Action → Prop
  | .set _ | .release => True
  | .ramp _ n => n ≠ 0
  | .pulse _ a b _ => a ≠ 0 ∧ b ≠ 0

/-- The template of a CUE entry. -/
def OutEntry.template (e : OutEntry) : Option CueTemplate :=
  match e.kind with
  | .cue t _ => some t
  | .cancel => none

/-- R65 and R67: every channel is lawful, none runs where no cycles run, and every action that waits is lawful. -/
structure State.ChannelsLawful (s : State) : Prop where
  channels : ∀ c, (s.cg.channels.get c).Lawful
  atRest : s.sc.state.cyclesRun = false → ∀ c, (s.cg.channels.get c).AtRest
  records : ∀ r ∈ s.cq.records, r.action.Lawful
  entries : ∀ e ∈ s.ob.entries, ∀ t, e.template = some t → t.contents.action.Lawful
  bindings : ∀ i b, (s.trigger i).binding = some b → b.template.contents.action.Lawful

/-! ## The cycle timer (R2, section 1.2) -/

/-- R2's table of phases and opening roles, and the presence of each field of CT in its phases. -/
structure State.TimerLawful (s : State) : Prop where
  configured : s.sc.state ≠ .config → s.sc.image.isSome = true
  stopped : s.sc.state = .config ∨ s.sc.state = .lineFault ∨ s.sc.state = .halted →
    s.ct.phase = .stopped ∧ s.ct.role = .idle
  listening : s.sc.state = .listening →
    (s.ct.phase = .waiting ∧ s.ct.role = .observer) ∨ (s.ct.phase = .opening ∧ s.ct.role ≠ .idle)
  running : s.sc.state.cyclesRun = true →
    (s.ct.phase = .slots ∧ s.ct.role = .participant) ∨ (s.ct.phase = .opening ∧ s.ct.role ≠ .idle)
  slotIndex : ∀ k, s.ct.slotIndex = some k → s.ct.phase = .slots ∧ k < s.slots
  position : s.ct.position.isSome = true ↔ s.ct.phase = .opening ∨ s.ct.phase = .slots
  proposal : s.ct.proposal.isSome = true ↔ s.ct.phase = .opening ∧ s.ct.role = .participant
  listenWindow : s.ct.listenWindow.isSome = true ↔ s.ct.phase = .waiting
  opening : s.ct.opening.isSome = true ↔ s.ct.phase = .opening

/-! ## The slot table and the roster (R19, R35, R99) -/

/-- R35: the roster lists exactly the peers that hold a slot in the table, each once and in ascending order; R99: the
unanswered stations of an outbox entry are PRESENT and no expected set holds this station. The last five conditions
say which reports a slot can hold and what CONFIG holds. -/
structure State.RosterLawful (s : State) : Prop where
  ascending : s.st.roster.Pairwise fun p q => p.station < q.station
  mirror : ∀ z, z ∈ s.st.present ↔ z ≠ s.self ∧ s.st.heldSlots z ≠ []
  expected : ∀ e ∈ s.ob.entries, ∀ d, e.send = some d → s.self ∉ d.expected
  unanswered : ∀ e ∈ s.ob.entries, ∀ z ∈ e.unanswered, z ∈ s.st.present
  entries : s.st.entries.length = if s.sc.state = .config then 0 else s.slots - 1
  configured : s.sc.state ≠ .config → s.sc.image.isSome = true
  configuring : s.sc.state = .config → s.ob.entries = [] ∧ s.slot.finding = none
  inCycle : ∀ k, s.ct.slotIndex = some k → k < s.slots
  finding : ∀ z, s.slot.finding = some (.slotFrame z) → z ≠ s.self ∧ s.ct.slotIndex ≠ some 0

/-- R21: this station's view shows it as holder of at most W slots. The other conditions say that a claim is on its way
only below W, that no finding of the slot in progress carries this station's number, and that a claim noted for a slot in
range is that of a station number (R188). -/
structure State.OwnSlotsLawful (s : State) : Prop where
  atMost : s.heldCount + s.claimedCount ≤ s.wanted
  claiming : ∀ r c items, s.fb.transmission = some { kind := .claim r, cycleCheck := c, items := items } →
    s.heldCount + s.claimedCount < s.wanted ∧ s.slot.judged = false
  claimed : ∀ r, s.slot.own = .claimCompleted r → s.slot.judged = false →
    s.heldCount + s.claimedCount < s.wanted
  sender : ∀ z, s.slot.finding = some (.slotFrame z) → z ≠ s.self
  claimer : ∀ r c, s.slot.finding = some (.claim r c) → c.toNat ≠ s.self.toNat
  named : ∀ r c, s.slot.finding = some (.claim r c) → 1 ≤ r.toNat → r.toNat < s.slots → c.toNat ≤ 31
  configuring : s.sc.state = .config →
    s.st.entries = [] ∧ s.fb.transmission = none ∧ s.slot.own = .silent ∧ s.slot.finding = none

/-! ## The configuration image (R166, R167) -/

/-- R166, R167: the values that a CONFIGURE admits. -/
structure Image.Valid (im : Image) : Prop where
  wanted : 1 ≤ im.wanted ∧ im.wanted ≤ 4
  silenceLimit : 2 ≤ im.silenceLimit ∧ im.silenceLimit ≤ 8
  retries : im.retries ≤ 3
  window : 2 ≤ im.window ∧ im.window ≤ 16
  watermark : 1 ≤ im.watermark ∧ im.watermark ≤ 32
  subscriptions : im.subscriptions.length ≤ 8
  groups : (im.subscriptions.map Subscription.group).Nodup
  mapped : ∀ e ∈ im.subscriptions, e.group ≠ 0 ∧
    (e.pos0.isSome = true ∨ e.pos1.isSome = true ∨ e.pos2.isSome = true ∨ e.pos3.isSome = true)

/-! ## The due positions (R42) -/

/-- The distance of a record's due cycle (R42). -/
def State.distanceTo (s : State) (r : CueRecord) : Nat := distance s.ct.cycle r.dueCycle

/-- A cue template whose lead and due slot are in range (R86). -/
def CueTemplate.InRange (slots : Nat) (t : CueTemplate) : Prop :=
  1 ≤ t.lead ∧ t.lead ≤ 1023 ∧ t.contents.dueSlot < slots

/-- R42: every held record is due later than the most recent slot beginning and at most 1023 cycles ahead, and the
records stand in order of due position. The other conditions are those under which every step keeps this: an image holds
what a CONFIGURE admits; the queue is empty where no cycles run and while a stray opening is observed, and then no outbox
entry has been sent; the opening in progress settles the number as R7 says; the cues on their way and those of the
trigger bindings have a lead in range (a binding's due slot is checked at its edge, R167, R184); and an open entry was
first sent fewer cycles ago than its lead and its window. -/
structure State.DueLawful (s : State) : Prop where
  images : ∀ im, s.sc.image = some im → im.Valid
  configured : s.sc.state ≠ .config → s.sc.image.isSome = true
  standing : s.sc.state.cyclesRun = false → s.cq.records = []
  inReach : ∀ r ∈ s.cq.records, s.distanceTo r ≤ 1023 ∧ r.dueSlot < s.slots
  unfired : ∀ r ∈ s.cq.records, s.distanceTo r = 0 →
    s.ct.phase = .slots ∧ ∀ k, s.ct.slotIndex = some k → k < r.dueSlot
  ordered : s.cq.records.Pairwise fun r q =>
    s.distanceTo r < s.distanceTo q ∨ (s.distanceTo r = s.distanceTo q ∧ r.dueSlot ≤ q.dueSlot)
  observing : s.ct.phase = .opening → s.ct.role ≠ .participant →
    s.cq.records = [] ∧ ∀ e ∈ s.ob.entries, e.send = none
  proposing : s.sc.state.cyclesRun = true → s.ct.phase = .opening → s.ct.role = .participant →
    s.ct.proposal = some (s.ct.cycle + 1)
  settled : s.sc.state.cyclesRun = true → s.ct.role = .participant → ∀ o, s.ct.opening = some o → o.stage = .shape →
    o.backward = false → o.number = s.ct.cycle + 1 + o.slip ∧ o.slip.toNat < 2147483648
  settling : s.ct.phase = .opening → ∃ o, s.ct.opening = some o
  sending : s.fb.transmission ≠ none → s.sc.state.cyclesRun = true ∧ s.ct.phase = .slots ∧ s.slot.judged = false
  items : ∀ f, s.fb.transmission = some f → ∀ n retry lead contents, TxItem.cue n retry lead contents ∈ f.items →
    1 ≤ lead ∧ lead ≤ 1023
  templates : ∀ e ∈ s.ob.entries, ∀ t, e.template = some t → t.InRange s.slots
  sent : ∀ e ∈ s.ob.entries, ∀ d, e.send = some d → (s.ct.cycle - d.firstSend).toNat < 16 ∧
    d.deadline = ahead d.firstSend (match e.template with
      | some t => min s.window t.lead
      | none => s.window) ∧
    later d.deadline s.ct.cycle = true
  bindings : ∀ i b, (s.trigger i).binding = some b → 1 ≤ b.template.lead ∧ b.template.lead ≤ 1023
  resting : s.sc.state.cyclesRun = false → s.ob.entries = []

/-! ## The line controller and the frame in transmission (R106, R108, R123) -/

/-- R123: the runs in range; R126: what LC sends agrees with the frame in transmission and with the opening; R108: the
items of a slot frame take at most P bytes; R124: at most nine levels of a byte are held; R132: no reception record
while an own frame is in transmission, and none where no cycles run, and the line overheard in that time alone. The
conditions on an own frame and on a station off the line are those under which every step keeps this. -/
structure State.LineLawful (s : State) : Prop where
  dominant : s.lc.dominantRun ≤ 40
  recessive : s.lc.recessiveRun ≤ 64
  reading : ∀ levels, s.lc.reading = some levels → 1 ≤ levels.length ∧ levels.length ≤ 9
  claim : s.lc.sending = .claim ↔ ∃ f r, s.fb.transmission = some f ∧ f.kind = .claim r
  slot : s.lc.sending = .slot ↔ ∃ f n, s.fb.transmission = some f ∧ f.kind = .slot n
  standing : s.lc.arbitration = .inside → s.lc.sending ≠ .nothing
  opening : s.lc.sending = .opening → s.ct.phase = .opening ∧ s.ct.role = .participant
  items : ∀ f, s.fb.transmission = some f → (f.items.flatMap TxItem.bytes).length ≤ s.payload
  frame : s.fb.transmission ≠ none → s.sc.state.cyclesRun = true ∧ s.ct.phase = .slots ∧ s.ct.slotIndex ≠ none ∧
    s.slot.judged = false ∧ s.lc.crc ≠ none ∧ s.lc.reception = none
  receiving : s.lc.reception ≠ none → s.sc.state.cyclesRun = true ∧ s.ct.phase = .slots ∧ s.lc.crc ≠ none
  overhearing : s.lc.overheard ≠ none → s.fb.transmission ≠ none
  configured : s.sc.state ≠ .config → s.sc.image.isSome = true
  apart : s.sc.state.onLine = false → s.ct.phase = .stopped ∧ s.lc.drive = .released ∧ s.lc.sending = .nothing ∧
    s.lc.arbitration = .outside ∧ s.lc.heldMismatch = false ∧ s.lc.crc = none ∧ s.lc.reception = none ∧
    s.lc.reading = none

/-! ## Vocabulary of the statements -/

/-- The bytes of one subscription entry (section 11.3). -/
def Subscription.bytes (e : Subscription) : List Byte :=
  e.group :: [e.pos0, e.pos1, e.pos2, e.pos3].map fun c =>
    match c with
    | none => 0xFF
    | some k => byte k.val

/-- The two bytes of a channel's settings (section 11.3). -/
def ChanSettings.bytes (c : ChanSettings) : List Byte := [c.polarity.code + 2 * c.policy.code, c.safeLevel]

/-- The bytes after the code of the CONFIGURE that carries an image, in the order of R166. -/
def Image.bytes (im : Image) : List Byte :=
  [im.station.setWidth 8, im.role.code, byte im.bitRate.val, byte im.slots.toNat, byte im.payload.toNat, byte im.wanted,
    byte im.silenceLimit, byte im.retries, byte im.window, byte im.watermark] ++
  [im.urgent.extractLsb' 16 8, im.urgent.extractLsb' 8 8, im.urgent.extractLsb' 0 8] ++
  [boolCode im.reportFiring, byte im.pwmRate.val] ++
  im.channels.c0.bytes ++ im.channels.c1.bytes ++ im.channels.c2.bytes ++ im.channels.c3.bytes ++
  im.channels.c4.bytes ++ im.channels.c5.bytes ++ im.channels.c6.bytes ++ im.channels.c7.bytes ++
  [byte im.subscriptions.length] ++ im.subscriptions.flatMap Subscription.bytes

/-- The fields of a cue template in range (R86). -/
structure CueTemplate.Valid (slots : Nat) (t : CueTemplate) : Prop where
  group : t.contents.group ≠ 0
  action : t.contents.action.Lawful
  dueSlot : t.contents.dueSlot < slots
  lead : 1 ≤ t.lead ∧ t.lead ≤ 1023

/-- An item as a hearer reads it (R137). -/
def TxItem.asRead : TxItem → LineItem
  | .release slot => .release slot
  | .ack id verdict => .ack id.originator id.serial verdict
  | .cancel serial => .cancel serial
  | .cue serial retry lead contents => .cue serial retry lead contents

/-- The fields of an item being sent are in the range that R137 checks. -/
def TxItem.Valid (slots : Nat) : TxItem → Prop
  | .release slot => 1 ≤ slot ∧ slot < slots
  | .ack _ _ | .cancel _ => True
  | .cue _ _ lead contents => CueTemplate.Valid slots { contents := contents, lead := lead }

/-- The sequence `zs` is made of `xs` and `ys`, each in its own order. -/
def Interleaves {α : Type} (zs xs ys : List α) : Prop := zs.Perm (xs ++ ys) ∧ xs.Sublist zs ∧ ys.Sublist zs

/-- The station states in which the station stands off the line (R153, R155). -/
def StationState.standsOff : StationState → Bool
  | .lineFault | .halted => true
  | .config | .listening | .learning | .quiet | .claiming | .active | .leaving => false

end Sys2Proof.Machine
end

