-- ==== Sys2Proof/WellFormed.lean ====
section
/-! DEFINITION. Which terms of Instr describe an event that the manual's line or port can show. -/

namespace Sys2Proof

/-- The command codes of section 11.3. -/
def commandCodes : List Nat :=
  [0x00, 0x01, 0x02, 0x03, 0x04, 0x05, 0x0F, 0x10, 0x11, 0x20, 0x21, 0x22, 0x23, 0x24, 0x25, 0x26, 0x30, 0x31, 0x32]

/-- The most bytes one frame has: three of header, 96 of items and two of CRC (R108). -/
def maxFrameBytes : Nat := 101

/-- The unfinished byte at a SEL rise holds at most seven bits (R160). -/
def tailOk (tail : List Bool) : Bool := decide (tail.length < 8)

/-- The event can occur as written (R128, R132, R133, R160, R161). A frame whose first byte has bad framing ends with no
byte read. A lost claim follows at most the two bytes of the guard and the first byte of its slot. -/
def wellFormed : Instr → Bool
  | .emptyTransaction tail => tailOk tail
  | .unknownCommand code _ tail => !commandCodes.contains code.toNat && tailOk tail
  | .nop _ tail | .getStatus _ tail | .configure _ tail | .start _ tail | .leave _ tail | .join _ tail
  | .reset _ tail _ _ | .submitCue _ tail | .cancelCue _ tail | .readEvents _ tail | .readSlots _ tail
  | .readRoster _ tail | .readQueue _ tail | .readOutbox _ tail | .readChannel _ tail | .readCounters _ tail
  | .driveChannel _ tail | .bindTrigger _ tail | .unbindTrigger _ tail | .ignoredTransactionEnd _ tail => tailOk tail
  | .openingPulse run _ => decide (11 ≤ run ∧ run ≤ 39)
  | .slotEnds (some bytes) => decide (bytes.length < maxFrameBytes)
  | .frameReceived bytes framingError =>
    (framingError || decide (1 ≤ bytes.length)) && decide (bytes.length ≤ maxFrameBytes)
  | .claimArbitrationLost read => decide (read.length ≤ 3)
  | .powerOnReset | .pinReset | .resetReleased _ _ _ | .transactionOpen | .triggerEdge _ | .pwmPeriodStart
  | .listenWindowExpiry | .openingBegins | .deferredOpeningEdge | .openingPulseRelease | .noEcho
  | .numberFieldEnd _ _ | .openingEnds _ | .slotBegins | .slotEnds none | .frameCompletes | .bitError | .headerArbitrationLost
  | .claimBitError | .claimCompletes | .frameCutOff | .byteGap
  | .strayTraffic | .stuckLine | .lineRestored | .fallingEdgeInLineFault | .numberFieldArbitrationLoss
  | .openingFramingError => true

end Sys2Proof
end

