-- ==== Sys2Proof/Certificates/Slice0/Obligations.lean ====
section
/-! DEFINITION. The statements for the provers, in the order of OBLIGATIONS.json: the queue of commands, the resets, the host port, the outbox, the channels, the triggers, the openings, the slots, the frames, the line faults, the encodings, and the laws that every step keeps. -/

open Sys2Proof Sys2Proof.Machine

/-! ## The queue of commands -/

/-- The model's own form (log entry 1): a step runs the command at the front of the queue on the state with the rest of
the queue; and every command answers a next state, never a fault or a refusal, and leaves the commands that wait as
they are. -/
def Obligations.StepRunsFrontCommand : Prop :=
  (∀ (c : Instr) (rest : List Instr) (s : State), s.pending = c :: rest → step s = exec c { s with pending := rest }) ∧
  (∀ (c : Instr) (s : State), ∃ t : State, exec c s = .next t ∧ t.pending = s.pending)

/-- R6, R123 to R125, R127, R131 to R133: a step on an empty queue is one bit time (the model's own choice, log entry 4,
with the level of the line a free value; that no row comes of it, log entry 18). The position advances, the listen
window counts down, and LC takes one level. On the line it times both runs; a dominant data bit of an arbitration field
read recessive sets the held mismatch, a covered data bit enters the CRC, and the pin takes the level of the bit that
begins; a station that sends stands inside the arbitration field then on the line, or has lost it, and outside it has no
standing; a falling edge, a dominant level where no run stands, begins a byte and, where a frame may start, a reception
record, and a level that stood before LC began to watch counts as one (log entry 40); ten levels give the record a byte,
or its framing mark for a dominant stop bit. While this station sends its own frame LC overhears the line in the same
way, from the first byte start edge or the guard's record on, and opens no record; that it keeps these bytes apart is
log entry 31. In LINE_FAULT it times the runs alone, in CONFIG and HALTED nothing. The bits that this station sends: the
bytes of its frame back to back from its slot's beginning, 12 bits of pulse, the complement of its proposal from bit
time 14 of an opening, with the start bits alone once it has lost, and the shape byte from bit time 54. The arbitration
fields: an opening's bit times 14 to 53, and from the first to the last data bit of a frame's first byte, in slot 0 of
its first two; that the start and stop bits inside such a field keep the standing is the model's choice (log entry 18).
-/
def Obligations.EmptyQueuePassesBitTime : Prop :=
  (∀ s : State, s.pending = [] →
    let dominant := Config.lineDominant s.ticks
    ∃ lc : LineController,
      step s = .next { s with
        ct := { s.ct with position := s.ct.position.map (· + 1), listenWindow := s.ct.listenWindow.map (· - 1) }
        lc := lc
        ticks := s.ticks + 1 } ∧
      (s.sc.state = .config ∨ s.sc.state = .halted → lc = s.lc) ∧
      (s.sc.state = .lineFault → lc = { s.lc with
        dominantRun := if dominant then min 40 (s.lc.dominantRun + 1) else 0
        recessiveRun := if dominant then 0 else min 64 (s.lc.recessiveRun + 1) }) ∧
      (s.sc.state.onLine = true →
        lc.sending = s.lc.sending ∧
        lc.dominantRun = (if dominant then min 40 (s.lc.dominantRun + 1) else 0) ∧
        lc.recessiveRun = (if dominant then 0 else min 64 (s.lc.recessiveRun + 1)) ∧
        (s.ct.position = none →
          lc.drive = s.lc.drive ∧ lc.arbitration = s.lc.arbitration ∧ lc.heldMismatch = s.lc.heldMismatch) ∧
        (∀ p, s.ct.position = some p →
          (s.sentAt p = none → lc.heldMismatch = s.lc.heldMismatch) ∧
          (∀ b, s.sentAt p = some b →
            (lc.heldMismatch = true ↔ s.lc.heldMismatch = true ∨
              (s.inField p = true ∧ b.data = true ∧ b.dominant = true ∧ dominant = false)) ∧
            (s.lc.reception = none → s.fb.transmission ≠ none →
              lc.crc = match b.covered with
                | none => s.lc.crc
                | some v => s.lc.crc.map fun acc => crcBit acc v)) ∧
          (s.sentAt (p + 1) = none → lc.drive = .released) ∧
          (∀ b, s.sentAt (p + 1) = some b → lc.drive = (if b.dominant then .driving else .released)) ∧
          (s.inField (p + 1) = false → lc.arbitration = .outside) ∧
          (s.inField (p + 1) = true → lc.arbitration =
            if s.lc.arbitration = .lost then .lost
            else if s.sentAt (p + 1) = none then .outside else .inside)) ∧
        (s.lc.reading = none →
          lc.reading = if dominant = true ∧ s.lc.dominantRun = 0 then some [true] else none) ∧
        (∀ levels, s.lc.reading = some levels → levels.length < 9 →
          lc.reading = some (levels ++ [dominant]) ∧ lc.reception = s.lc.reception) ∧
        (∀ levels, s.lc.reading = some levels → 9 ≤ levels.length → lc.reading = none) ∧
        (∀ k, s.frameStart = some k → s.lc.reading = none → s.lc.dominantRun = 0 → dominant = true →
          lc.reception =
            some { slot := k, bytes := [], expected := if k = 0 then some 5 else none, framing := false }) ∧
        (s.fb.transmission = none → lc.overheard = s.lc.overheard) ∧
        (∀ levels, s.lc.reading = some levels → levels.length < 9 → lc.overheard = s.lc.overheard) ∧
        (∀ k, s.fb.transmission ≠ none → s.ct.slotIndex = some k → s.lc.reading = none → s.lc.dominantRun = 0 →
          dominant = true → lc.overheard = some (s.lc.overheard.getD
            { slot := k, bytes := [], expected := if k = 0 then some 5 else none, framing := false })) ∧
        (∀ (b : Byte) (r : Reception), s.fb.transmission ≠ none → s.ct.slotIndex ≠ none →
          s.lc.reading = some ((lineBits b).take 9) → s.lc.overheard = some r →
          r.framing = false → overlong r.slot s.payload r.bytes = false → r.expected ≠ some r.bytes.length →
          (dominant = false → lc.overheard =
            some { r with bytes := r.bytes ++ [b], expected := expectedBytes r.slot (r.bytes ++ [b]) }) ∧
          (dominant = true → lc.overheard = some { r with framing := true })) ∧
        (∀ (b : Byte) (r : Reception), s.lc.reading = some ((lineBits b).take 9) → s.lc.reception = some r →
          r.framing = false → overlong r.slot s.payload r.bytes = false → r.expected ≠ some r.bytes.length →
          (dominant = false → lc.reception =
            some { r with bytes := r.bytes ++ [b], expected := expectedBytes r.slot (r.bytes ++ [b]) }) ∧
          (dominant = true → lc.reception = some { r with framing := true })))) ∧
  (∀ (s : State) (f : TxFrame) (k q : Nat), s.fb.transmission = some f → s.ct.slotIndex = some k →
    s.lc.sending = .slot ∨ s.lc.sending = .claim →
    let bytes := f.bytes s.self
    let data : Prop := 1 ≤ q % 10 ∧ q % 10 ≤ 8
    let value := (byteAt bytes (q / 10)).getMsbD (q % 10 - 1)
    let place := 80 + k * (10 * (s.payload + 5) + 20) + q
    (s.ct.phase = .slots → (s.inField place = true ↔ 1 ≤ q ∧ q ≤ if k = 0 then 18 else 8)) ∧
    (10 * bytes.length ≤ q → s.sentAt place = none) ∧
    (q < 10 * bytes.length → ∃ b, s.sentAt place = some b ∧
      (b.dominant = true ↔ q % 10 = 0 ∨ (data ∧ value = false)) ∧ (b.data = true ↔ data) ∧
      b.covered = if data ∧ q / 10 + 2 < bytes.length then some value else none)) ∧
  (∀ (s : State) (o : Opening) (proposal : Cycle) (im : Image) (q : Nat), s.lc.sending = .opening →
    s.ct.opening = some o → s.ct.proposal = some proposal → s.sc.image = some im →
    let data : Prop := 1 ≤ q % 10 ∧ q % 10 ≤ 8
    (s.ct.phase = .opening → (s.inField q = true ↔ 14 ≤ q ∧ q < 54)) ∧
    (o.stage = .pulse →
      s.sentAt q = if q < 12 then some { dominant := true, data := false, covered := none } else none) ∧
    (o.stage = .number → q < 14 → s.sentAt q = none) ∧
    (o.stage = .number → q < 40 → ∃ b, s.sentAt (14 + q) = some b ∧ b.covered = none ∧
      (b.data = true ↔ data) ∧
      (b.dominant = true ↔ q % 10 = 0 ∨
        (o.lost = false ∧ data ∧ proposal.getMsbD (8 * (q / 10) + (q % 10 - 1)) = true))) ∧
    (o.stage = .shape → q < 10 → ∃ b, s.sentAt (54 + q) = some b ∧ b.covered = none ∧
      (b.data = true ↔ data) ∧
      (b.dominant = true ↔ q = 0 ∨ (data ∧ im.shapeByte.getMsbD (q - 1) = false))))

/-! ## Resets (section 8.2) -/

/-- R141 to R143, R85, R159, R162, R169, R182, R189: what the entry into reset leaves, the release of a held part, and
the RESET command. A power-on reset brings every block to its reset value with serial counter 0; a pin reset of a part
that is not held does so with the serial counter kept; a pin reset of a part that is held changes nothing further. The
trigger levels stand until the release, which sets them from the pins, and the transaction to IGNORED when SEL is low.
RESET reaches the reset condition at the SEL rise with the serial counter kept and leaves the start report as its
response. The model's own: that the trigger levels stand while the part is held (log entry 38), that RESET ends its
reset at the same rise, with HP IDLE and the levels taken from the pins (log entry 28), that a power-on reset of a held
part makes the reason POWER_ON (log entry 3), and the fields that no rule names, which stay, with shiftedOut set at the
rise (log entry 23). -/
def Obligations.ResetsReachResetValues : Prop :=
  (∀ s : State,
     exec .powerOnReset s = .next { State.reset with
       hold := { s.hold with powerOn := true }
       trig0 := { s.trig0 with binding := none, lastSerial := none }
       trig1 := { s.trig1 with binding := none, lastSerial := none }
       ticks := s.ticks, choices := s.choices, pending := s.pending } ∧
     (s.held = false → exec .pinReset s = .next { State.reset with
       sc := { State.reset.sc with startReason := .pin }
       hold := { s.hold with pin := true }
       ob := { entries := [], counter := s.ob.counter }
       hp := { State.reset.hp with
         response := { sequence := 0, code := 0x7F, status := .ok, data := 1 :: be2 s.ob.counter.toNat } }
       trig0 := { s.trig0 with binding := none, lastSerial := none }
       trig1 := { s.trig1 with binding := none, lastSerial := none }
       ticks := s.ticks, choices := s.choices, pending := s.pending }) ∧
     (s.held = true → exec .pinReset s = .next { s with hold := { s.hold with pin := true } })) ∧
  ((∀ (a b : Level) (selLow : Bool) (s : State), s.held = true →
     exec (.resetReleased a b selLow) s = .next { s with
       hold := { powerOn := false, pin := false }
       trig0 := { s.trig0 with level := a }
       trig1 := { s.trig1 with level := b }
       hp := { s.hp with transaction := if selLow then .ignored else .idle } }) ∧
   (∀ (rest : List Byte) (tail : List Bool) (a b : Level) (s : State), s.Serving →
     exec (.reset rest tail a b) s = .next { State.reset with
       sc := { State.reset.sc with startReason := .command }
       hold := s.hold
       ob := { entries := [], counter := s.ob.counter }
       hp := { State.reset.hp with
         response := { sequence := 0, code := 0x0F, status := .ok, data := 2 :: be2 s.ob.counter.toNat }
         shiftedOut := s.hp.response.shifted (8 * (rest.length + 1) + tail.length) }
       trig0 := { level := a, binding := none, lastSerial := none }
       trig1 := { level := b, binding := none, lastSerial := none }
       ticks := s.ticks, choices := s.choices, pending := s.pending }))

/-! ## The host port (Chapter 9) -/

/-- R160 to R162, R164, R166: the transactions that carry no effect beyond the port: a SEL fall taken while HP is IDLE,
an empty transaction, an unknown code, the end of an IGNORED transaction, and NOP. A command code with fewer bytes than
its expected length is not taken: SHORT with the bytes received and the expected length, and nothing else. Before a
valid CONFIGURE the configuration-gated commands are refused with NOT_CONFIGURED and change nothing else. That the whole
bytes clocked in and the output place stand after the SEL rise is the model's choice (log entry 35), and what SDO
presented is held in a field of the model's own (log entry 23). The number that a response carries is log entry 13. -/
def Obligations.TransactionsAndEarlyRefusals : Prop :=
  ((∀ s : State, s.held = false → s.hp.transaction = .idle →
     exec .transactionOpen s = .next { s with hp := { s.hp with
       transaction := .opened, input := [], inputTail := [], outByte := 0, outBit := 0 } }) ∧
   (∀ (tail : List Bool) (s : State), s.Serving → exec (.emptyTransaction tail) s = .next (s.clockedIn [] tail)) ∧
   (∀ (code : Byte) (rest : List Byte) (tail : List Bool) (s : State), s.Serving → Sys2Proof.commandCodes.contains code.toNat = false →
     exec (.unknownCommand code rest tail) s =
       .next ((s.clockedIn (code :: rest) tail).answered code .unknownCommand [])) ∧
   (∀ (bytes : List Byte) (tail : List Bool) (s : State), s.held = false → s.hp.transaction = .ignored →
     exec (.ignoredTransactionEnd bytes tail) s = .next { s with hp := { s.hp with
       transaction := .idle
       outByte := (8 * bytes.length + tail.length) / 8
       outBit := (8 * bytes.length + tail.length) % 8
       shiftedOut := s.hp.response.shifted (8 * bytes.length + tail.length) } }) ∧
   (∀ (rest : List Byte) (tail : List Bool) (s : State), s.Serving →
     exec (.nop rest tail) s = .next ((s.clockedIn (0x00 :: rest) tail).answered 0x00 .ok []))) ∧
  (∀ (rest : List Byte) (tail : List Bool) (s : State), s.Serving →
     let short := fun (code : Byte) (expected : Nat) =>
       Host.Outcome.next (φ := Fault) (ρ := Refusal) ((s.clockedIn (code :: rest) tail).answered code .short
         (be2 (rest.length + 1) ++ be2 expected))
     (rest.length + 1 < 33 + 5 * announced rest → exec (.configure rest tail) s = short 0x02 (33 + 5 * announced rest)) ∧
     (rest.length + 1 < 12 → exec (.submitCue rest tail) s = short 0x10 12) ∧
     (rest.length + 1 < 3 → exec (.cancelCue rest tail) s = short 0x11 3) ∧
     (rest.length + 1 < 2 →
       exec (.readEvents rest tail) s = short 0x20 2 ∧ exec (.readQueue rest tail) s = short 0x23 2 ∧
       exec (.readOutbox rest tail) s = short 0x24 2 ∧ exec (.readChannel rest tail) s = short 0x25 2 ∧
       exec (.unbindTrigger rest tail) s = short 0x32 2) ∧
     (rest.length + 1 < 7 → exec (.driveChannel rest tail) s = short 0x30 7) ∧
     (rest.length + 1 < 14 → exec (.bindTrigger rest tail) s = short 0x31 14)) ∧
  (∀ (rest : List Byte) (tail : List Bool) (s : State), s.Serving → s.sc.image = none →
     let refused := fun (code : Byte) =>
       Host.Outcome.next (φ := Fault) (ρ := Refusal) ((s.clockedIn (code :: rest) tail).answered code .notConfigured [])
     exec (.readSlots rest tail) s = refused 0x21 ∧ exec (.readRoster rest tail) s = refused 0x22 ∧
     exec (.readCounters rest tail) s = refused 0x26 ∧
     (2 ≤ rest.length + 1 →
       exec (.readEvents rest tail) s = refused 0x20 ∧ exec (.readQueue rest tail) s = refused 0x23 ∧
       exec (.readOutbox rest tail) s = refused 0x24 ∧ exec (.readChannel rest tail) s = refused 0x25 ∧
       exec (.unbindTrigger rest tail) s = refused 0x32) ∧
     (7 ≤ rest.length + 1 → exec (.driveChannel rest tail) s = refused 0x30) ∧
     (14 ≤ rest.length + 1 → exec (.bindTrigger rest tail) s = refused 0x31))

/-- R40, R63, R82, R105, R165, R173, R174, R179 to R181, R189: GET_STATUS and the table reads answer what they return
and change nothing but the port: the sizes of the fixed answers, the place named for the others, and BAD_INDEX beyond
the last place. R187, R189, R190: the layout of each of these answers byte by byte, of a cue record, an outbox entry, a
channel and each kind of event record, absent fields as R187 sets; that a CANCEL entry's absent flags byte is FFh whole
is the model's choice (log entry 32). READ_EVENTS removes up to n of the oldest records with the lost count and
evaluates ATN afresh; a count of 0 or above 4 removes nothing. READ_COUNTERS returns the eight counters and sets each to
0. The code tables of chapter 11 that these bytes name, and a response as SDO presents it: the header, the data, and
then zeros, the most significant bit of each byte first (R160, R187). What the port keeps of the transaction, and the
number that a response carries, are the model's readings (log entries 13, 23 and 35). -/
def Obligations.ReadsReturnAndTake : Prop :=
  (∀ (rest : List Byte) (tail : List Bool) (s : State), s.Serving →
     let answers := fun (code : Byte) (status : Status) (data : List Byte) =>
       Host.Outcome.next (φ := Fault) (ρ := Refusal) ((s.clockedIn (code :: rest) tail).answered code status data)
     exec (.getStatus rest tail) s = answers 0x01 .ok s.statusBytes ∧
     s.statusBytes.take 6 = [s.sc.state.code, s.sc.startReason.code, boolCode s.sc.image.isSome,
       (s.sc.image.map fun im => im.station.setWidth 8).getD 0xFF, (s.sc.image.map fun im => im.role.code).getD 0xFF,
       (s.sc.faultReason.map fun r => r.toReason.code).getD 0xFF] ∧
     s.statusBytes.length = 22 ∧
     (s.sc.image.isSome = true →
       exec (.readSlots rest tail) s = answers 0x21 .ok s.slotBytes ∧
       s.slotBytes.length = 3 + 9 * s.st.entries.length ∧
       exec (.readRoster rest tail) s = answers 0x22 .ok s.st.rosterBytes ∧
       s.st.rosterBytes.length = 1 + 13 * s.st.roster.length ∧
       (∀ i more, rest = i :: more →
         (i.toNat ≤ 63 → exec (.readQueue rest tail) s = answers 0x23 .ok (byte s.cq.records.length ::
           match s.cq.records[i.toNat]? with
           | none => [0]
           | some r => 1 :: r.bytes)) ∧
         (63 < i.toNat → exec (.readQueue rest tail) s = answers 0x23 .badIndex []) ∧
         (i.toNat ≤ 15 → exec (.readOutbox rest tail) s = answers 0x24 .ok
           (match s.ob.entries[i.toNat]? with
           | none => [0]
           | some e => 1 :: e.bytes)) ∧
         (15 < i.toNat → exec (.readOutbox rest tail) s = answers 0x24 .badIndex []) ∧
         (∀ h : i.toNat < 8, exec (.readChannel rest tail) s = answers 0x25 .ok (s.cg.bytes ⟨i.toNat, h⟩) ∧
           (s.cg.bytes ⟨i.toNat, h⟩).length = 17) ∧
         (7 < i.toNat → exec (.readChannel rest tail) s = answers 0x25 .badIndex [])))) ∧
  ([StationState.config, .listening, .learning, .quiet, .claiming, .active, .leaving, .lineFault, .halted].map
       StationState.code = [0, 1, 2, 3, 4, 5, 6, 7, 8] ∧
     [Reason.start, .adopted, .selfOpened, .learned, .slotsFull, .slotShort, .leave, .left, .join, .stray, .backward,
       .stuck, .noEcho, .restored, .shape, .twin].map Reason.code = [0, 1, 2, 3, 4, 5, 6, 7, 8, 9, 10, 11, 12, 13, 14, 15] ∧
     [FaultReason.stuck, .noEcho, .shape, .twin].map (fun f => f.toReason.code) = [11, 12, 14, 15] ∧
     [Status.ok, .withdrawn, .cancelQueued, .wrongState, .badConfig, .notConfigured, .outboxFull, .notTalking,
       .notTalker, .badCue, .badSerial, .badIndex, .noCycles, .short, .unknownCommand].map Status.code =
       [0, 1, 2, 3, 4, 5, 6, 7, 8, 9, 10, 11, 12, 13, 14] ∧
     [StartReason.powerOn, .pin, .command].map StartReason.code = [0, 1, 2] ∧
     [Role.talker, .listener].map Role.code = [0, 1] ∧
     [Verdict.accepted, .notMine, .duplicate, .queueFull, .cancelled, .tooLate, .unknown].map Verdict.code =
       [1, 2, 3, 4, 5, 6, 7] ∧
     (∀ v w n m : Byte, [Action.set v, .ramp v n, .pulse v n m w, .release].map Action.code = [1, 2, 3, 4]) ∧
     [CueKind.cue, .cancel].map CueKind.code = [0, 1] ∧
     [Source.host, .trigger .trig0, .trigger .trig1].map Source.code = [0, 1, 2] ∧
     [Outcome.complete, .partialAnswers, .withdrawn, .abandoned].map Outcome.code = [0, 1, 2, 3] ∧
     [LossReason.lapsed, .displaced, .released].map LossReason.code = [0, 1, 2] ∧
     [DropReason.notTalking, .pending, .badTemplate, .outboxFull].map DropReason.code = [0, 1, 2, 3] ∧
     [AbandonCause.lineFault, .halted, .resync].map AbandonCause.code = [0, 1, 2] ∧
     [Edge.rising, .falling].map Edge.code = [0, 1] ∧ [TrigInput.trig0, .trig1].map inputCode = [0, 1] ∧
     [Polarity.activeHigh, .activeLow].map Polarity.code = [0, 1] ∧ [FaultPolicy.hold, .safe].map FaultPolicy.code = [0, 1] ∧
     [false, true].map boolCode = [0, 1]) ∧
  (∀ (r : Response) (n : Nat),
     r.bytes = [r.sequence.setWidth 8, r.code, r.status.code] ++ be2 r.data.length ++ r.data ∧
     (r.shifted n).length = n ∧
     ∀ i, i < n → (r.shifted n)[i]? =
       some (decide (i / 8 < r.bytes.length) && (byteAt r.bytes (i / 8)).getMsbD (i % 8))) ∧
  (∀ s : State,
     let own := s.st.heldSlots s.self
     s.statusBytes.drop 6 = be4 s.ct.cycle ++
       [match s.ct.slotIndex with
         | none => 0xFF
         | some k => byte k] ++
       ([0, 1, 2, 3] : List Nat).map (fun i => match own[i]? with
         | none => 0xFF
         | some k => byte k) ++
       [byte s.cq.records.length, byte s.ob.entries.length, byte s.fb.staging.length, byte s.ev.records.length,
         byte s.ev.lost] ++ be2 s.ob.counter.toNat ∧
     s.slotBytes.take 3 = [byte s.heldCount, byte s.claimedCount, byte s.st.entries.length] ∧
     (∀ (i : Nat) (e : SlotEntry), s.st.entries[i]? = some e →
       (s.slotBytes.drop (3 + 9 * i)).take 9 = byte (i + 1) :: match e.view with
         | .free => [0, 0xFF, 0, 0xFF, 0, 0, 0, 0]
         | .claimed z c => [1, z.setWidth 8, 0, if z = s.self then byte e.failures else 0xFF] ++ be4 c
         | .held z n => [2, z.setWidth 8, byte n, if z = s.self then byte e.failures else 0xFF, 0, 0, 0, 0]) ∧
     s.st.rosterBytes.take 1 = [byte s.st.roster.length] ∧
     (∀ (i : Nat) (p : Peer), s.st.roster[i]? = some p → ∃ slots : BitVec 32,
       (∀ n, n < 32 → (slots.getLsbD n = true ↔ n ∈ s.st.heldSlots p.station)) ∧
       (s.st.rosterBytes.drop (1 + 13 * i)).take 13 =
         [p.station.setWidth 8] ++ be4 slots ++ be4 p.joined ++ be4 p.lastHeard)) ∧
  (∀ (v w : Byte) (n m : Nat) (c : BitVec 32),
     be2 n = [byte (n / 256), byte n] ∧
     be4 c = [byte (c.toNat / 16777216), byte (c.toNat / 65536), byte (c.toNat / 256), byte c.toNat] ∧
     (Action.set v).bytes = [v, 0, 0, 0] ∧ (Action.ramp v w).bytes = [v, w, 0, 0] ∧
     (Action.pulse v w (byte n) (byte m)).bytes = [v, w, byte n, byte m] ∧ Action.release.bytes = [0, 0, 0, 0]) ∧
  (∀ r : CueRecord, r.bytes =
     [r.id.originator.setWidth 8] ++ be2 r.id.serial.toNat ++
       [r.group, byte r.position.val, byte r.channel.val, r.action.code] ++ r.action.bytes ++ be4 r.dueCycle ++
       [byte r.dueSlot, boolCode r.replace] ++ be2 r.arrival.toNat) ∧
  (∀ e : OutEntry, ∃ (expected missing : BitVec 32) (contents : List Byte),
     (∀ z : Station, (expected.getLsbD z.toNat = true ↔ ∃ d, e.send = some d ∧ z ∈ d.expected) ∧
       (missing.getLsbD z.toNat = true ↔ z ∈ e.unanswered)) ∧
     (e.kind = .cancel → contents = [0, 0xFF, 0xFF, 0, 0, 0, 0, 0xFF, 0, 0, 0xFF]) ∧
     (∀ t pending, e.kind = .cue t pending → contents =
       [t.contents.group, byte t.contents.position.val, t.contents.action.code] ++ t.contents.action.bytes ++
         [byte t.contents.dueSlot] ++ be2 t.lead ++ [boolCode t.contents.replace]) ∧
     let front := fun state : Byte => [e.cueKind.code] ++ be2 e.serial.toNat ++ [state, e.source.code,
       match e.kind with
         | .cue _ pending => boolCode pending
         | .cancel => 0xFF]
     let self : Byte := match e.selfVerdict with
       | none => 0xFF
       | some v => v.code
     (e.send = none → e.bytes = front (if e.state = .queued then 0 else if e.state = .sending then 1 else 3) ++
       List.replicate 13 0 ++ [0xFF] ++ List.replicate 8 0 ++ [0xFF, self] ++ be4 missing ++ contents ++ [0]) ∧
     (∀ d, e.send = some d → e.bytes =
       front (if e.state = .queued then 0 else if e.state = .sending then 2 else 3) ++ [byte d.attempts] ++
       be4 d.firstSend ++ be4 d.lastSend ++
       (match e.kind with
         | .cue t _ => be4 (d.firstSend + BitVec.ofNat 32 t.lead) ++ [byte t.contents.dueSlot]
         | .cancel => [0, 0, 0, 0, 0xFF]) ++
       be4 d.deadline ++ be4 expected ++ [byte d.departed, self] ++ be4 missing ++ contents ++
       [byte d.answers.length] ++ d.answers.flatMap fun a => [a.1.setWidth 8, a.2.code])) ∧
  (∀ (g : ChannelGenerators) (c : Channel),
     let st := g.settings.get c
     let last : List Byte := [st.polarity.code, st.policy.code, st.safeLevel, byte g.rate.val]
     (g.channels.get c = .idle → g.bytes c = [byte c.val, 0, 0, 0, 0, 0, 0xFF, 0, 0, 0, 0, 0xFF, 0] ++ last) ∧
     (∀ v, g.channels.get c = .hold v →
       g.bytes c = [byte c.val, 1, v, 0, 0, 0, 0xFF, 0, 0, 0, 0, 0xFF, 0] ++ last) ∧
     (∀ v a b n k, g.channels.get c = .ramp v a b n k →
       g.bytes c = [byte c.val, 2, v, a, b, n, k, 0, 0, 0, 0, 0xFF, 0] ++ last) ∧
     (∀ v a b m phase left, g.channels.get c = .pulse v a b m phase left →
       g.bytes c = [byte c.val, 3, if phase = .on then v else 0, 0, 0, 0, 0xFF, v, a, b, m,
         if phase = .on then 0 else 1, left] ++ last)) ∧
  (∀ (before after : StationState) (reason : Reason) (loss : LossReason) (fault : FaultReason) (z : Station)
     (slot held claimed skipped : Nat) (c d : Cycle) (id : CueId) (group level : Byte) (position : Position)
     (channel : Channel) (action : Action) (retry repeated : Bool) (cause : AbandonCause) (input : TrigInput)
     (edge : Edge) (serial : Serial) (drop : DropReason) (history : CountHistory),
     let zeros := fun n : Nat => List.replicate n (0 : Byte)
     EventRecord.bytes (.stateChanged before after reason c held) =
       [1, before.code, after.code, reason.code] ++ be4 c ++ [byte held] ++ zeros 7 ∧
     EventRecord.bytes (.peerJoined z slot c) = [2, z.setWidth 8, byte slot, 0] ++ be4 c ++ zeros 8 ∧
     EventRecord.bytes (.peerLost z slot loss c d) =
       [3, z.setWidth 8, byte slot, loss.code] ++ be4 c ++ be4 d ++ zeros 4 ∧
     EventRecord.bytes (.slotGained slot c held) = [4, 0, byte slot, 0] ++ be4 c ++ [byte held] ++ zeros 7 ∧
     EventRecord.bytes (.slotLost slot loss c held) =
       [5, 0, byte slot, loss.code] ++ be4 c ++ [byte held] ++ zeros 7 ∧
     EventRecord.bytes (.noFreeSlot c held claimed) = [6, 0, 0, 0] ++ be4 c ++ [byte held, byte claimed] ++ zeros 6 ∧
     EventRecord.bytes (.cycleSlip c d skipped) = [7, 0, 0, 0] ++ be4 c ++ be4 d ++ [byte skipped] ++ zeros 3 ∧
     EventRecord.bytes (.strayOpening .outsideWindow c none) = [8, 0, 0, 0] ++ be4 c ++ zeros 8 ∧
     EventRecord.bytes (.strayOpening .backward c (some d)) = [8, 0, 0, 1] ++ be4 c ++ be4 d ++ zeros 4 ∧
     EventRecord.bytes (.cueFired id group position channel action c slot level) =
       [10, id.originator.setWidth 8] ++ be2 id.serial.toNat ++ be4 c ++
         [byte slot, group, byte position.val, byte channel.val, action.code, level, 0, 0] ∧
     EventRecord.bytes (.cueRefused id group position c slot retry) =
       [11, id.originator.setWidth 8] ++ be2 (retry.toNat * 32768 + id.serial.toNat) ++ be4 c ++
         [byte slot, group, byte position.val] ++ zeros 5 ∧
     EventRecord.bytes (.cuesAbandoned held cause c) = [12, byte held, 0, cause.code] ++ be4 c ++ zeros 8 ∧
     EventRecord.bytes (.triggerTaken input edge serial c) =
       [13, inputCode input, edge.code, 0] ++ be4 c ++ be2 serial.toNat ++ zeros 6 ∧
     EventRecord.bytes (.triggerDropped input edge drop c) =
       [14, inputCode input, edge.code, drop.code] ++ be4 c ++ zeros 8 ∧
     EventRecord.bytes (.lineFault fault before c repeated) =
       [15, before.code, if repeated then 1 else 0, fault.toReason.code] ++ be4 c ++ zeros 8 ∧
     EventRecord.bytes (.lineRestored c history) =
       [16, if history = .held then 1 else 0, 0, 0] ++ be4 c ++ zeros 8 ∧
     EventRecord.bytes (.halted fault before c) = [17, before.code, 0, fault.toReason.code] ++ be4 c ++ zeros 8) ∧
  (∀ (c : Coverage) (a b d e : Nat), ∃ missing : BitVec 32,
     (∀ z : Station, missing.getLsbD z.toNat = true ↔ z ∈ c.missing) ∧
     (c.counts = [a, b, d, e] ∨ (c.counts = [a, b, d] ∧ e = 0) →
       EventRecord.bytes (.coverage c) =
         [9, c.kind.code, c.outcome.code, match c.selfVerdict with
           | none => 0
           | some v => v.code] ++
         be2 c.serial.toNat ++ [byte c.expected, byte a, byte b, byte d, byte e, byte c.departed] ++ be4 missing)) ∧
  (∀ (rest : List Byte) (tail : List Bool) (s : State), s.Serving → s.sc.image.isSome = true →
     (∀ n more, rest = n :: more → 1 ≤ n.toNat → n.toNat ≤ 4 → ∃ atn : Bool,
       (atn = true ↔ s.ev.watermark ≤ s.ev.records.length - n.toNat ∨
         ∃ r ∈ s.ev.records.drop n.toNat, s.ev.urgent.getLsbD r.kindCode = true) ∧
       exec (.readEvents rest tail) s = .next ((({ s with
           ev := { s.ev with records := s.ev.records.drop n.toNat, lost := 0, atn := atn } } : State).clockedIn
             (0x20 :: rest) tail).answered 0x20 .ok
         ([byte (min n.toNat s.ev.records.length), byte s.ev.lost] ++
           (s.ev.records.take n.toNat).flatMap EventRecord.bytes))) ∧
     (∀ n more, rest = n :: more → n.toNat = 0 ∨ 4 < n.toNat →
       exec (.readEvents rest tail) s = .next ((s.clockedIn (0x20 :: rest) tail).answered 0x20 .badIndex [])) ∧
     exec (.readCounters rest tail) s = .next ((({ s with
         counters := { crcErrors := 0, formatErrors := 0, cycleCheck := 0, acksDropped := 0, strayAcks := 0,
                       damagedOpenings := 0, ownFailures := 0, claimLosses := 0 } } : State).clockedIn
           (0x26 :: rest) tail).answered 0x26 .ok
       (be2 s.counters.crcErrors ++ be2 s.counters.formatErrors ++ be2 s.counters.cycleCheck ++
         be2 s.counters.acksDropped ++ be2 s.counters.strayAcks ++ be2 s.counters.damagedOpenings ++
         be2 s.counters.ownFailures ++ be2 s.counters.claimLosses)))

/-- R66, R144, R166, R167, R176, R179, R189: CONFIGURE in CONFIG replaces the image and every block's part of it; with
an invalid field it is refused with BAD_CONFIG, and in any other state with WRONG_STATE, and then only the port changes.
The fields are checked in the order of R166: BAD_CONFIG carries the number of the first that is invalid, and FFh, or for
field 16 the index of the first invalid entry; with none invalid the command is taken. That the entries are counted from
0 is the model's reading (log entry 12). What the port keeps of the transaction, and the number that a response carries,
are the model's readings (log entries 13, 23 and 35). -/
def Obligations.ConfigureTakenOrRefused : Prop :=
  ∀ (rest : List Byte) (tail : List Bool) (s : State), s.Serving → 33 + 5 * announced rest ≤ rest.length + 1 →
    (s.sc.state ≠ .config →
      exec (.configure rest tail) s = .next ((s.clockedIn (0x02 :: rest) tail).answered 0x02 .wrongState [])) ∧
    (∀ field place, s.sc.state = .config → Image.ofBytes rest = .error (field, place) →
      exec (.configure rest tail) s =
        .next ((s.clockedIn (0x02 :: rest) tail).answered 0x02 .badConfig [byte field, place])) ∧
    (let value := fun i : Nat => (byteAt rest i).toNat
     let valid : Nat → Prop := fun field => match field with
       | 1 => value 0 ≤ 31
       | 2 => value 1 ≤ 1
       | 3 => value 2 ≤ 3
       | 4 => value 3 = 8 ∨ value 3 = 16 ∨ value 3 = 32
       | 5 => value 4 = 24 ∨ value 4 = 48 ∨ value 4 = 96
       | 6 => 1 ≤ value 5 ∧ value 5 ≤ 4
       | 7 => 2 ≤ value 6 ∧ value 6 ≤ 8
       | 8 => value 7 ≤ 3
       | 9 => 2 ≤ value 8 ∧ value 8 ≤ 16
       | 10 => 1 ≤ value 9 ∧ value 9 ≤ 32
       | 12 => value 13 ≤ 1
       | 13 => value 14 ≤ 2
       | 15 => value 31 ≤ 8
       | _ => True
     let entry := fun i j : Nat => value (32 + 5 * i + j)
     let validEntry : Nat → Prop := fun i => entry i 0 ≠ 0 ∧ (∀ k, k < i → entry k 0 ≠ entry i 0) ∧
       (∀ j, 1 ≤ j → j ≤ 4 → entry i j ≤ 7 ∨ entry i j = 255) ∧ ∃ j, 1 ≤ j ∧ j ≤ 4 ∧ entry i j ≤ 7
     let refused := fun field place : Nat => exec (.configure rest tail) s = .next
       ((s.clockedIn (0x02 :: rest) tail).answered 0x02 .badConfig [byte field, byte place])
     (∀ field, s.sc.state = .config → ¬valid field → (∀ m, m < field → valid m) → refused field 255) ∧
     (∀ i, s.sc.state = .config → (∀ m, valid m) → i < value 31 → ¬validEntry i → (∀ k, k < i → validEntry k) →
       refused 16 i) ∧
     ((∀ m, valid m) → (∀ i, i < value 31 → validEntry i) → ∃ im, Image.ofBytes rest = .ok im)) ∧
    (∀ im, s.sc.state = .config → Image.ofBytes rest = .ok im → ∃ atn : Bool,
      (atn = true ↔ im.watermark ≤ s.ev.records.length ∨
        ∃ r ∈ s.ev.records, im.urgent.getLsbD r.kindCode = true) ∧
      exec (.configure rest tail) s = .next ((({ s with
          sc := { s.sc with image := some im }
          cg := { s.cg with settings := im.channels, rate := im.pwmRate }
          cq := { s.cq with subscriptions := im.subscriptions }
          ev := { s.ev with watermark := im.watermark, urgent := im.urgent, reportFiring := im.reportFiring,
                            atn := atn } } : State).clockedIn (0x02 :: rest) tail).answered 0x02 .ok []))

/-- R2, R19, R145, R149, R151, R156, R168: START in CONFIG with a valid configuration enters LISTENING: S − 1 FREE
entries, CT WAITING with three nominal cycle lengths, the talk intent by the role, one STATE_CHANGED record. The
refusals of START, LEAVE and JOIN change only the port, and JOIN by a talker in QUIET enters CLAIMING with talk intent
TALK and one STATE_CHANGED record. What the port keeps of the transaction, and the number that a response carries, are
the model's readings (log entries 13, 23 and 35). -/
def Obligations.StationCommandsByState : Prop :=
  (∀ (rest : List Byte) (tail : List Bool) (s : State) (im : Image), s.Serving → s.sc.state = .config →
     s.sc.image = some im →
     exec (.start rest tail) s = .next ((({ s with
         sc := { s.sc with state := .listening, talkIntent := im.role == Role.talker }
         ct := { phase := .waiting, cycle := s.ct.cycle, history := s.ct.history, slotIndex := none, position := none,
                 role := .observer, proposal := none, opening := none
                 listenWindow := some (3 * (80 + im.slots.toNat * (10 * (im.payload.toNat + 5) + 20))) }
         st := { s.st with entries := List.replicate (im.slots.toNat - 1) { view := .free, failures := 0 } }
         fb := { s.fb with staging := [] }
         ev := s.ev.offer (.stateChanged .config .listening .start s.ct.cycle 0) } : State).clockedIn
           (0x03 :: rest) tail).answered 0x03 .ok [1])) ∧
  (∀ (rest : List Byte) (tail : List Bool) (s : State), s.Serving →
     let answers := fun (code : Byte) (status : Status) =>
       Host.Outcome.next (φ := Fault) (ρ := Refusal) ((s.clockedIn (code :: rest) tail).answered code status [])
     (s.sc.state ≠ .config → exec (.start rest tail) s = answers 0x03 .wrongState) ∧
     (s.sc.state = .config → s.sc.image = none → exec (.start rest tail) s = answers 0x03 .notConfigured) ∧
     (s.sc.state ≠ .claiming → s.sc.state ≠ .active → exec (.leave rest tail) s = answers 0x04 .wrongState) ∧
     (s.sc.state ≠ .quiet → exec (.join rest tail) s = answers 0x05 .wrongState) ∧
     (∀ im, s.sc.state = .quiet → s.sc.image = some im → im.role = .listener →
       exec (.join rest tail) s = answers 0x05 .notTalker) ∧
     (∀ im, s.sc.state = .quiet → s.sc.image = some im → im.role = .talker →
       exec (.join rest tail) s = .next ((({ s with
           sc := { s.sc with state := .claiming, talkIntent := true }
           ev := s.ev.offer (.stateChanged .quiet .claiming .join s.ct.cycle s.heldCount) } : State).clockedIn
             (0x05 :: rest) tail).answered 0x05 .ok [4])))

/-- R104, R149, R150, R157, R168: LEAVE in CLAIMING or ACTIVE: talk intent NONE, LEAVING, or QUIET at once with no own
entry and then with the staging list emptied; every QUEUED entry closes WITHDRAWN but a CANCEL whose CUE is SENDING with
withdraw-pending; the records in the order of R157; every other block as it was. That LEAVE with no own entry goes to
QUIET while an own claim frame is in transmission is the model's reading (log entry 16). What the port keeps of the
transaction, and the number that a response carries, are the model's readings (log entries 13, 23 and 35). -/
def Obligations.LeaveWithdrawsQueued : Prop :=
  ∀ (rest : List Byte) (tail : List Bool) (s : State), s.Serving → s.sc.state = .claiming ∨ s.sc.state = .active →
    let done : Bool := decide (s.heldCount = 0 ∧ s.claimedCount = 0)
    let after : StationState := if done then .quiet else .leaving
    let kept := fun e : OutEntry => e.state != .queued || (!e.isCue && s.ob.entries.any fun c =>
      c.isCue && c.serial == e.serial && c.state == .sending && c.withdrawPending)
    exec (.leave rest tail) s = .next ((({ s with
        sc := { s.sc with state := after, talkIntent := false }
        ob := { s.ob with entries := s.ob.entries.filter kept }
        fb := { s.fb with staging := if done then [] else s.fb.staging }
        ev := s.ev.offers ([.stateChanged s.sc.state .leaving .leave s.ct.cycle s.heldCount] ++
          ((s.ob.entries.filter fun e => !kept e).map fun e => e.coverage .withdrawn) ++
          if done then [.stateChanged .leaving .quiet .left s.ct.cycle 0] else []) } : State).clockedIn
          (0x04 :: rest) tail).answered 0x04 .ok [after.code])

/-! ## The outbox (Chapter 5) -/

/-- R86, R170: SUBMIT_CUE: its three checks in order, each refusal changing only the port, and the entry it creates.
What the port keeps of the transaction, and the number that a response carries, are the model's readings (log entries
13, 23 and 35). -/
def Obligations.SubmitChecksAndCreates : Prop :=
  ∀ (rest : List Byte) (tail : List Bool) (s : State), s.Serving → 12 ≤ rest.length + 1 →
    let refused := fun (status : Status) =>
      Host.Outcome.next (φ := Fault) (ρ := Refusal) ((s.clockedIn (0x10 :: rest) tail).answered 0x10 status [])
    (s.sc.state ≠ .claiming → s.sc.state ≠ .active → exec (.submitCue rest tail) s = refused .notTalking) ∧
    (s.sc.state = .claiming ∨ s.sc.state = .active →
      (CueTemplate.ofBytes s.slots rest = none → exec (.submitCue rest tail) s = refused .badCue) ∧
      (∀ t, CueTemplate.ofBytes s.slots rest = some t →
        (16 ≤ s.ob.entries.length → exec (.submitCue rest tail) s = refused .outboxFull) ∧
        (s.ob.entries.length < 16 → exec (.submitCue rest tail) s = .next ((({ s with
            ob := { entries := s.ob.entries ++ [{ serial := s.ob.nextSerial, kind := .cue t false, state := .queued,
                                                  source := .host, send := none, selfVerdict := none }]
                    counter := s.ob.nextSerial + 1 } } : State).clockedIn (0x10 :: rest) tail).answered 0x10 .ok
          (be2 s.ob.nextSerial.toNat)))))

/-- R85: the serial assigned is the first, from the counter's value on, that no open entry of either kind holds. -/
def Obligations.SerialIsFirstFree : Prop :=
  ∀ o : Outbox, o.entries.length ≤ 15 → ∃ k : Nat, k ≤ 15 ∧ o.nextSerial = o.counter + BitVec.ofNat 10 k ∧
    (∀ e ∈ o.entries, e.serial ≠ o.nextSerial) ∧
    (∀ j, j < k → ∃ e ∈ o.entries, e.serial = o.counter + BitVec.ofNat 10 j)

/-- R57, R88 to R90, R171: CANCEL_CUE by the standing of the CUE entry it names; the response carries the serial with
every status. What the port keeps of the transaction, and the number that a response carries, are the model's readings
(log entries 13, 23 and 35). -/
def Obligations.CancelByStanding : Prop :=
  ∀ (hi lo : Byte) (more : List Byte) (tail : List Bool) (s : State), s.Serving →
    let rest := hi :: lo :: more
    let n := hi.toNat * 256 + lo.toNat
    let serial := BitVec.ofNat 10 n
    let answers := fun (t : State) (status : Status) =>
      Host.Outcome.next (φ := Fault) (ρ := Refusal) ((t.clockedIn (0x11 :: rest) tail).answered 0x11 status (be2 n))
    let id : CueId := { originator := s.self, serial := serial }
    let cancel := fun (self : Option Verdict) => ({ serial := serial, kind := .cancel, state := .queued, source := .host,
                                                    send := none, selfVerdict := self } : OutEntry)
    let talking : Prop := s.sc.state = .claiming ∨ s.sc.state = .active
    (1023 < n → exec (.cancelCue rest tail) s = answers s .badSerial) ∧
    (n ≤ 1023 →
      (∀ e, s.ob.find .cue serial = some e → e.state = .queued → ∃ t, exec (.cancelCue rest tail) s = answers t .withdrawn ∧
        t = { s with ob := { s.ob with entries := s.ob.entries.filter fun x => !x.named .cue serial }
                     ev := s.ev.offers ((s.ob.entries.filter fun x => x.named .cue serial).map fun x =>
                       x.coverage .withdrawn) }) ∧
      (¬(∃ e, s.ob.find .cue serial = some e ∧ e.state = .queued) →
        (s.ob.cancelOpen serial = true → exec (.cancelCue rest tail) s = answers s .ok) ∧
        (s.ob.cancelOpen serial = false →
          (∀ e t, s.ob.find .cue serial = some e → e.state = .sending → e.send = none → e.kind = .cue t false →
            (16 ≤ s.ob.entries.length → exec (.cancelCue rest tail) s = answers s .outboxFull) ∧
            (s.ob.entries.length < 16 → exec (.cancelCue rest tail) s = answers { s with
              ob := { s.ob with entries := (s.ob.entries.map fun x =>
                match x.kind with
                | .cue u _ => if x.serial = serial then { x with kind := .cue u true } else x
                | .cancel => x) ++ [cancel none] } } .cancelQueued)) ∧
          ((s.ob.find .cue serial = none ∨ ∃ e, s.ob.find .cue serial = some e ∧ e.send ≠ none) →
            (¬talking → exec (.cancelCue rest tail) s = answers s .notTalking) ∧
            (talking → 16 ≤ s.ob.entries.length → exec (.cancelCue rest tail) s = answers s .outboxFull) ∧
            (talking → s.ob.entries.length < 16 → s.cq.holds id = false →
              exec (.cancelCue rest tail) s = answers { s with
                ob := { s.ob with entries := s.ob.entries ++ [cancel none] } } .ok) ∧
            (talking → s.ob.entries.length < 16 → s.cq.holds id = true →
              exec (.cancelCue rest tail) s = answers { s with
                cq := s.cq.remove (fun r => r.id == id) .cancelled
                ob := { s.ob with entries := s.ob.entries ++ [cancel (some .cancelled)] } } .ok)))))

/-- R97: the replacement table, for an answer in the map and for the self verdict, and the check of R98 after each
answer: an ACK that matches an entry is taken into its answers, and the entry closes COMPLETE when it is then
complete. -/
def Obligations.AnswersReplaceByTable : Prop :=
  (∀ v : Verdict, takeVerdict none v = some v) ∧
  (∀ old : Verdict, takeVerdict (some old) .duplicate = some old) ∧
  (∀ old : Verdict, old ≠ .queueFull → takeVerdict (some old) .queueFull = some old) ∧
  takeVerdict (some .queueFull) .queueFull = some .queueFull ∧
  (∀ old v : Verdict, v ≠ .duplicate → v ≠ .queueFull → takeVerdict (some old) v = some v) ∧
  (∀ (d : SendData) (z y : Station) (v : Verdict), (d.answers.map Prod.fst).Pairwise (· < ·) →
    answerOf (d.answer z v).answers y =
      if y = z then takeVerdict (answerOf d.answers z) v else answerOf d.answers y) ∧
  (∀ (e : OutEntry) (v : Verdict), (e.takeSelf v).selfVerdict = takeVerdict e.selfVerdict v) ∧
  (∀ (s : State) (z : Station) (n : Serial) (v : Verdict) (e : OutEntry) (d : SendData), s.ob.Lawful →
    s.ob.find v.kind n = some e → e.send = some d → z ∈ d.expected →
    let answered := { e with send := some (d.answer z v) }
    s.takeAck z n v = { s with
      ob := { s.ob with entries :=
        if answered.unanswered = [] then s.ob.entries.filter fun x => !x.named v.kind n
        else s.ob.entries.map fun x => if x.named v.kind n then answered else x }
      ev := s.ev.offers (if answered.unanswered = [] then [answered.coverage .complete] else []) })

/-! ## The channels (Chapter 4) -/

/-- R76, R172: DRIVE_CHANNEL of a configured station: BAD_INDEX for a channel above 7, BAD_CUE for an action that is not
known or whose params are out of range, NO_CYCLES for a RAMP or PULSE where no cycles run, and else the action applied
to that channel's record, the other records and every other block as they were. What the port keeps of the transaction,
and the number that a response carries, are the model's readings (log entries 13, 23 and 35). -/
def Obligations.DriveChannelChecksAndApplies : Prop :=
  ∀ (rest : List Byte) (tail : List Bool) (s : State), s.Serving → s.sc.image.isSome = true → 7 ≤ rest.length + 1 →
    let refused := fun (status : Status) =>
      Host.Outcome.next (φ := Fault) (ρ := Refusal) ((s.clockedIn (0x30 :: rest) tail).answered 0x30 status [])
    let action := Action.ofBytes (byteAt rest 1) (byteAt rest 2) (byteAt rest 3) (byteAt rest 4) (byteAt rest 5)
    (7 < (byteAt rest 0).toNat → exec (.driveChannel rest tail) s = refused .badIndex) ∧
    ((byteAt rest 0).toNat ≤ 7 → action = none → exec (.driveChannel rest tail) s = refused .badCue) ∧
    (∀ a, (byteAt rest 0).toNat ≤ 7 → action = some a → (a.code = 2 ∨ a.code = 3) → s.sc.state.cyclesRun = false →
      exec (.driveChannel rest tail) s = refused .noCycles) ∧
    (∀ (c : Channel) (a : Action), (byteAt rest 0).toNat = c.val → action = some a →
      (a.code = 2 ∨ a.code = 3 → s.sc.state.cyclesRun = true) →
      ∃ cg : ChannelGenerators,
        (∀ d, cg.channels.get d = if d = c then (s.cg.channels.get c).apply a else s.cg.channels.get d) ∧
        cg.settings = s.cg.settings ∧ cg.rate = s.cg.rate ∧ cg.outputs = s.cg.outputs ∧
        cg.outputRate = s.cg.outputRate ∧
        exec (.driveChannel rest tail) s =
          .next ((({ s with cg := cg } : State).clockedIn (0x30 :: rest) tail).answered 0x30 .ok (cg.bytes c)))

/-- R65, R70, R71, R73, R75, R78: what each action makes of a channel, whatever it was doing, and the level it then
shows; the fault policy of one channel, by the table, and of every channel by its own settings. -/
def Obligations.ActionsAndFaultPolicy : Prop :=
  ((∀ (c : ChanState) (v : Byte), c.apply (.set v) = .hold v ∧ (c.apply (.set v)).level = v) ∧
   (∀ (c : ChanState) (t n : Byte), c.apply (.ramp t n) = .ramp c.level c.level t n 0 ∧
     (c.apply (.ramp t n)).level = c.level) ∧
   (∀ (c : ChanState) (v a b m : Byte), c.apply (.pulse v a b m) = .pulse v a b m .on a ∧
     (c.apply (.pulse v a b m)).level = v) ∧
   (∀ c : ChanState, c.apply .release = .idle ∧ (c.apply .release).level = 0) ∧
   (∀ (v a b m left : Byte), (ChanState.pulse v a b m .off left).level = 0)) ∧
  ((∀ (c : ChanState) (st : ChanSettings), st.policy = .safe → c.underPolicy st = .hold st.safeLevel) ∧
   (∀ (c : ChanState) (st : ChanSettings), st.policy = .hold →
     c.underPolicy st = if c = .idle then .idle else .hold c.level) ∧
   (∀ (g : ChannelGenerators) (c : Channel),
     g.underPolicy.channels.get c = (g.channels.get c).underPolicy (g.settings.get c) ∧
     g.underPolicy.settings = g.settings ∧ g.underPolicy.rate = g.rate ∧ g.underPolicy.outputs = g.outputs ∧
     g.underPolicy.outputRate = g.outputRate))

/-- R72: one advance of a ramp, and its whole course: after k advances below n it stands at its k-th level, which lies
between where it started and its target and on the start's side of the exact quotient, and the n-th advance lands on
the target and holds it. -/
def Obligations.RampRunsToTarget : Prop :=
  ∀ start target n level : Byte,
    let exact : Nat → Int := fun k => start.toNat + ((target.toNat - start.toNat : Int) * k).tdiv n.toNat
    (∀ k : Byte, k.toNat + 1 < n.toNat → ∃ l : Byte, (l.toNat : Int) = exact (k.toNat + 1) ∧
      (ChanState.ramp level start target n k).advance = .ramp l start target n (k + 1)) ∧
    (∀ k : Byte, k.toNat + 1 = n.toNat → (ChanState.ramp level start target n k).advance = .hold target) ∧
    (∀ k : Nat, 1 ≤ k → k < n.toNat → ∃ l : Byte, (l.toNat : Int) = exact k ∧
      ChanState.advance^[k] (.ramp level start target n 0) = .ramp l start target n (BitVec.ofNat 8 k) ∧
      min start.toNat target.toNat ≤ l.toNat ∧ l.toNat ≤ max start.toNat target.toNat ∧
      (start.toNat ≤ target.toNat →
        (n.toNat : Int) * (exact k - start.toNat) ≤ ((target.toNat : Int) - start.toNat) * k) ∧
      (target.toNat ≤ start.toNat →
        ((target.toNat : Int) - start.toNat) * k ≤ (n.toNat : Int) * (exact k - start.toNat))) ∧
    (1 ≤ n.toNat → ChanState.advance^[n.toNat] (.ramp level start target n 0) = .hold target)

/-- R74: one advance of a pulse train, and its whole course: it shows the on level for a slot beginnings and 0 for b,
repeating, stays in PULSE until it ends, and enters IDLE at slot beginning m × a + (m − 1) × b, or never for m = 0. -/
def Obligations.PulseTrainRuns : Prop :=
  ∀ v a b m : Byte, a ≠ 0 → b ≠ 0 →
    (∀ phase left, 1 < left.toNat →
      (ChanState.pulse v a b m phase left).advance = .pulse v a b m phase (left - 1)) ∧
    (ChanState.pulse v a b 1 .on 1).advance = .idle ∧
    (ChanState.pulse v a b 0 .on 1).advance = .pulse v a b 0 .off b ∧
    (2 ≤ m.toNat → (ChanState.pulse v a b m .on 1).advance = .pulse v a b (m - 1) .off b) ∧
    (ChanState.pulse v a b m .off 1).advance = .pulse v a b m .on a ∧
    (∀ j : Nat, m = 0 ∨ j < m.toNat * a.toNat + (m.toNat - 1) * b.toNat →
      (∃ left phase phaseLeft,
        ChanState.advance^[j] (.pulse v a b m .on a) = .pulse v a b left phase phaseLeft) ∧
      (ChanState.advance^[j] (.pulse v a b m .on a)).level = if j % (a.toNat + b.toNat) < a.toNat then v else 0) ∧
    (m ≠ 0 → ChanState.advance^[m.toNat * a.toNat + (m.toNat - 1) * b.toNat] (.pulse v a b m .on a) = .idle)

/-- R80, R81: at a PWM period start every output takes its channel's level and polarity and the period takes the rate;
nothing else changes, and while the part is held in reset the row changes nothing, which is the model's choice (log
entry 5). The pin is then active from the start of the period for level/255 of it, in nanoseconds. That the active part
begins with the period is the model's reading (log entry 24). -/
def Obligations.PwmPeriodTakesLevels : Prop :=
  (∀ s : State, s.held = true → exec .pwmPeriodStart s = .next s) ∧
  (∀ s : State, s.held = false → ∃ outputs : PerChannel OutputLatch,
    exec .pwmPeriodStart s = .next { s with cg := { s.cg with outputs := outputs, outputRate := s.cg.rate } } ∧
    ∀ c, outputs.get c = { level := (s.cg.channels.get c).level, polarity := (s.cg.settings.get c).polarity }) ∧
  (∀ (o : OutputLatch) (rate : Fin 3) (t : Nat), t < pwmPeriod rate →
    (o.pinHigh rate t = true ↔ (t * 255 < o.level.toNat * pwmPeriod rate ↔ o.polarity = .activeHigh))) ∧
  pwmPeriod 0 = 1000000 ∧ pwmPeriod 1 = 250000 ∧ pwmPeriod 2 = 62500

/-! ## The trigger inputs (section 10.5) -/

/-- R175, R183: BIND_TRIGGER and UNBIND_TRIGGER of a configured station: BAD_INDEX for an input above 1 or an edge code
above 2, BAD_CUE for a template out of range, and else the input's binding alone replaced or removed. What the port
keeps of the transaction, and the number that a response carries, are the model's readings (log entries 13, 23 and 35).
-/
def Obligations.TriggerBindingCommands : Prop :=
  ∀ (rest : List Byte) (tail : List Bool) (s : State), s.Serving → s.sc.image.isSome = true →
    let answers := fun (code : Byte) (t : State) (status : Status) =>
      Host.Outcome.next (φ := Fault) (ρ := Refusal) ((t.clockedIn (code :: rest) tail).answered code status [])
    let rebound := fun (i : TrigInput) (b : Option Binding) =>
      match i with
      | .trig0 => { s with trig0 := { s.trig0 with binding := b } }
      | .trig1 => { s with trig1 := { s.trig1 with binding := b } }
    let edge : EdgeCode := if byteAt rest 1 = 0 then .rising else if byteAt rest 1 = 1 then .falling else .both
    (14 ≤ rest.length + 1 → 1 < (byteAt rest 0).toNat ∨ 2 < (byteAt rest 1).toNat →
      exec (.bindTrigger rest tail) s = answers 0x31 s .badIndex) ∧
    (14 ≤ rest.length + 1 → (byteAt rest 0).toNat ≤ 1 → (byteAt rest 1).toNat ≤ 2 →
      CueTemplate.ofBytes s.slots (rest.drop 2) = none → exec (.bindTrigger rest tail) s = answers 0x31 s .badCue) ∧
    (∀ i t, 14 ≤ rest.length + 1 → byteAt rest 0 = inputCode i → (byteAt rest 1).toNat ≤ 2 →
      CueTemplate.ofBytes s.slots (rest.drop 2) = some t →
      exec (.bindTrigger rest tail) s = answers 0x31 (rebound i (some { edge := edge, template := t })) .ok) ∧
    (2 ≤ rest.length + 1 → 1 < (byteAt rest 0).toNat →
      exec (.unbindTrigger rest tail) s = answers 0x32 s .badIndex) ∧
    (∀ i, 2 ≤ rest.length + 1 → byteAt rest 0 = inputCode i →
      exec (.unbindTrigger rest tail) s = answers 0x32 (rebound i none) .ok)

/-- R182, R184, R185: an edge on an input changes its filtered level, whether or not it is bound; an edge its binding
names is dropped for the first of the four reasons that holds, with TRIGGER_DROPPED, or creates a QUEUED CUE entry of
the template with the next serial, which the input remembers, and TRIGGER_TAKEN. That an entry SENDING on a retry makes
the input PENDING too is the model's reading of R184 beside R185 (log entry 41). -/
def Obligations.TriggerEdgesPresented : Prop :=
  ∀ (i : TrigInput) (s : State), s.held = false →
    let before := s.trigger i
    let edge : Edge := if before.level = .low then .rising else .falling
    let level : Level := if before.level = .low then .high else .low
    let put := fun (t : TriggerState) (ob : Outbox) (ev : EventQueue) =>
      Host.Outcome.next (φ := Fault) (ρ := Refusal) (match i with
        | .trig0 => { s with trig0 := t, ob := ob, ev := ev }
        | .trig1 => { s with trig1 := t, ob := ob, ev := ev })
    let still := { before with level := level }
    let dropped := fun (reason : DropReason) => put still s.ob (s.ev.offer (.triggerDropped i edge reason s.ct.cycle))
    let talking : Prop := s.sc.state = .claiming ∨ s.sc.state = .active
    let pending : Prop := ∃ n, before.lastSerial = some n ∧ ∃ e ∈ s.ob.entries,
      e.isCue = true ∧ e.serial = n ∧ e.source = .trigger i ∧ e.state ≠ .sent
    (before.binding = none → exec (.triggerEdge i) s = put still s.ob s.ev) ∧
    (∀ b, before.binding = some b →
      let named : Prop := b.edge = .both ∨ (b.edge = .rising ∧ edge = .rising) ∨ (b.edge = .falling ∧ edge = .falling)
      (¬named → exec (.triggerEdge i) s = put still s.ob s.ev) ∧
      (named → ¬talking → exec (.triggerEdge i) s = dropped .notTalking) ∧
      (named → talking → pending → exec (.triggerEdge i) s = dropped .pending) ∧
      (named → talking → ¬pending → s.slots ≤ b.template.contents.dueSlot →
        exec (.triggerEdge i) s = dropped .badTemplate) ∧
      (named → talking → ¬pending → b.template.contents.dueSlot < s.slots → 16 ≤ s.ob.entries.length →
        exec (.triggerEdge i) s = dropped .outboxFull) ∧
      (named → talking → ¬pending → b.template.contents.dueSlot < s.slots → s.ob.entries.length < 16 →
        exec (.triggerEdge i) s = put { still with lastSerial := some s.ob.nextSerial }
          { entries := s.ob.entries ++ [{ serial := s.ob.nextSerial, kind := .cue b.template false, state := .queued,
                                          source := .trigger i, send := none, selfVerdict := none }]
            counter := s.ob.nextSerial + 1 }
          (s.ev.offer (.triggerTaken i edge s.ob.nextSerial s.ct.cycle))))

/-! ## The openings (Chapter 1) -/

/-- R4 to R6, R16, R129, R133, R134: an opening starts. The listen window's expiry and the opening window's edge begin
an opening in which this station takes part, with the proposal of R16 or the next cycle number; an edge that was first
taken as a byte start makes the frame of slot S − 1 invalid, judges the slot and begins the opening 10 bit times after
its edge; the pulse ends after 12 bit times. The dominant run goes on from its own falling edge through all of this, be
it this station's edge or an earlier one: it is never cut back, and those of the pulse's bit times that had not yet been
counted are added at its end (R123, R128). A station that reads dominant for its recessive bit has lost. That the frame
so cut counts one format error and slot S − 1 is judged on it at that edge is the model's reading (log entry 20), and
that the position stands at 0, 10 and 12 is the nominal offset of each event (log entry 19). -/
def Obligations.OpeningsStart : Prop :=
  let fresh : Opening := { stage := .pulse, lost := false, numberDamaged := false, shapeDamaged := false, number := 0,
                           slip := 0, backward := false }
  let begun := fun (s : State) (proposal : Cycle) (position : Nat) =>
    ({ s with
      ct := { s.ct with phase := .opening, slotIndex := none, position := some position, role := .participant,
                        proposal := some proposal, listenWindow := none, opening := some fresh }
      lc := { s.lc with drive := .driving, sending := .opening, arbitration := .outside, heldMismatch := false,
                        crc := none, reception := none
                        dominantRun := if s.lc.dominantRun < position then position else s.lc.dominantRun
                        recessiveRun := 0, reading := none, overheard := none } } : State)
  (∀ s : State, s.sc.state = .listening → s.ct.phase = .waiting →
    exec .listenWindowExpiry s = .next (begun s (if s.ct.history = .unsettled then 0 else s.ct.cycle + 1) 0)) ∧
  (∀ s : State, s.sc.state.cyclesRun = true → s.ct.phase = .slots → s.ct.slotIndex = some (s.slots - 1) →
    s.slot.judged = true →
    exec .openingBegins s = .next { begun s (s.ct.cycle + 1) 0 with slot := .blank }) ∧
  (∀ s : State, s.listens = true → s.slot.ended = true → s.ct.slotIndex = some (s.slots - 1) →
    let judged := ({ s with
      counters := { s.counters with formatErrors := min 65535 (s.counters.formatErrors + 1) }
      slot := { s.slot with finding := some .invalid }
      lc := { s.lc with reception := none, crc := none, arbitration := .outside } } : State).judge
    exec .deferredOpeningEdge s = .next { begun judged (judged.ct.cycle + 1) 10 with slot := .blank }) ∧
  (∀ (s : State) (o : Opening), s.ct.phase = .opening → s.ct.role = .participant → s.ct.opening = some o →
    o.stage = .pulse →
    ∃ run : Nat,
      exec .openingPulseRelease s = .next { s with
        ct := { s.ct with position := some 12, opening := some { o with stage := .number } }
        lc := { s.lc with drive := .released, dominantRun := run } } ∧
      (s.lc.dominantRun ≤ 40 → 12 ≤ run ∧ run ≤ 40 ∧ s.lc.dominantRun ≤ run) ∧
      (∀ p, s.ct.position = some p → 12 ≤ s.lc.dominantRun + (12 - p) →
        run = min 40 (s.lc.dominantRun + (12 - p)))) ∧
  (∀ (s : State) (o : Opening), s.ct.phase = .opening → s.ct.role = .participant → s.ct.opening = some o →
    o.stage = .number →
    exec .numberFieldArbitrationLoss s = .next { s with
      ct := { s.ct with opening := some { o with lost := true } }
      lc := { s.lc with arbitration := .lost, drive := .released } })

/-- R6, R7, R12, R14, R16: the end of the number field settles the number: the proposal when it won or the field is
damaged, a later number with its slip amount, an earlier one adopted with the backward mark but in LISTENING; an
observer takes the number read, or the next one when the field is damaged. A participant that has not lost drives the
shape byte. A mismatch that LC holds damages the field as one that the row tells does (log entry 18). The recessive stop
bit of a field with good framing ends any dominant run (R124, R128). Nothing else changes. That the position is then 54
for an observer too, whose position runs from the pulse's falling edge (R13, R15), is the model's choice (log entry 19).
-/
def Obligations.NumberFieldSettles : Prop :=
  ∀ (read : BitVec 32) (mismatch : Bool) (s : State) (o : Opening), s.ct.phase = .opening → s.ct.opening = some o →
    o.stage = .number →
    let part : Prop := s.ct.role = .participant
    let winning : Cycle := ~~~read
    let bad : Prop := o.numberDamaged = true ∨ ((mismatch = true ∨ s.lc.heldMismatch = true) ∧ part)
    ∃ (damaged : Bool) (number slip : Cycle) (backward : Bool),
      exec (.numberFieldEnd read mismatch) s = .next { s with
        ct := { s.ct with position := some 54
                          opening := some { o with stage := .shape, numberDamaged := damaged, number := number,
                                                   slip := slip, backward := backward } }
        lc := { s.lc with arbitration := .outside, heldMismatch := false
                          dominantRun := if o.numberDamaged then s.lc.dominantRun else 0
                          drive := if s.ct.role = .participant ∧ o.lost = false then .driving else .released
                          sending := if s.ct.role = .participant ∧ o.lost = false then .opening else .nothing } } ∧
      (damaged = true ↔ bad) ∧
      (∀ proposal, s.ct.proposal = some proposal → part →
        (bad ∨ winning = proposal → number = proposal ∧ slip = 0 ∧ backward = false) ∧
        (¬bad → 1 ≤ (winning - proposal).toNat → (winning - proposal).toNat ≤ 2147483647 →
          number = winning ∧ slip = winning - proposal ∧ backward = false) ∧
        (¬bad → 2147483648 ≤ (winning - proposal).toNat →
          number = winning ∧ slip = 0 ∧ (backward = true ↔ s.sc.state ≠ .listening))) ∧
      (¬part → slip = 0 ∧ backward = false ∧ (bad → number = s.ct.cycle + 1) ∧ (¬bad → number = winning))

/-- R8 to R10, R12, R14, R17, R60, R101, R146, R147: an opening that matched in shape, or was damaged there, and adopts
no earlier number ends: the number, history HELD and SLOTS, the queue purged on a slip, the entries whose deadline is
not later closed COMPLETE or PARTIAL, the damaged opening counted, LISTENING left for LEARNING, and LEARNING left for
CLAIMING or QUIET when this station took part. The recessive stop bit of a shape byte with good framing ends any
dominant run (R124, R128). CYCLE_SLIP and the COVERAGE records stand in an order left open (R177, log entry 6). The
model's choices: the COVERAGE records stand before STATE_CHANGED (log entry 8), a slip is reported, and before
STATE_CHANGED, where LISTENING is left (log entry 21), and the position is 64 for an observer too (log entry 19). -/
def Obligations.OpeningEndSettles : Prop :=
  ∀ (shape : Byte) (s : State) (o : Opening) (im : Image), s.ct.phase = .opening → s.ct.opening = some o →
    o.stage = .shape → s.sc.image = some im → o.shapeDamaged = true ∨ im.shapeMatches shape = true →
    o.backward = false →
    let closes := fun e : OutEntry => e.send.any fun d => !later d.deadline o.number
    let move : Option (StationState × Reason) :=
      match s.sc.state with
      | .listening => some (.learning, if s.ct.role = .participant then .selfOpened else .adopted)
      | .learning =>
        if s.ct.role = .participant then some (if s.sc.talkIntent then .claiming else .quiet, .learned) else none
      | _ => none
    let after : StationState := (move.map Prod.fst).getD s.sc.state
    ∃ (records : List EventRecord) (choices : Nat),
      Interleaves records
        (if o.slip = 0 then [] else
          [.cycleSlip o.number o.slip (s.cq.records.filter fun r => earlier r.dueCycle o.number).length])
        ((s.ob.entries.filter closes).map fun e => e.coverage (if e.complete then .complete else .partialAnswers)) ∧
      exec (.openingEnds shape) s = .next { s with
        ct := { phase := .slots, cycle := o.number, history := .held, slotIndex := none, position := some 64,
                role := .participant, proposal := none, listenWindow := none, opening := none }
        lc := { s.lc.release with dominantRun := if o.shapeDamaged then s.lc.dominantRun else 0 }
        slot := .blank
        cq := if o.slip = 0 then s.cq else s.cq.remove (fun r => earlier r.dueCycle o.number) .skipped
        ob := { s.ob with entries := s.ob.entries.filter fun e => !closes e }
        sc := { s.sc with state := after }
        fb := { s.fb with staging := if move.isNone ∨ after.stages then s.fb.staging else [] }
        counters := if o.numberDamaged || o.shapeDamaged then
            { s.counters with damagedOpenings := min 65535 (s.counters.damagedOpenings + 1) }
          else s.counters
        ev := s.ev.offers (records ++ (move.map fun m =>
          EventRecord.stateChanged s.sc.state m.1 m.2 o.number s.heldCount).toList)
        choices := choices }

/-- R103, R34, R61, R78, R114, R152, R153, R155, R157: what entry to LINE_FAULT, entry to HALTED and a resynchronization
do to every block, and their records in order: STATE_CHANGED with no held slot, the transition's own record,
CUES_ABANDONED, one COVERAGE record for each outbox entry in order of creation. No counter moves, though a damaged
opening be cut short (log entry 39). Off the line LC's recessive run is 0 and no byte is being read. -/
def Obligations.FaultHaltAndResyncClearWork : Prop :=
  ∀ s : State,
    let cleared : SlotTable := { entries := s.st.entries.map fun _ => { view := .free, failures := 0 }, roster := [],
                                 reportArmed := true }
    let abandoned : CueQueue := { s.cq with records := [], retired := [], insertions := 0 }
    let empty : FrameBuilder := { staging := [], transmission := none }
    let free : LineController := { s.lc with drive := .released, sending := .nothing, arbitration := .outside,
                                             heldMismatch := false, crc := none, reception := none
                                             overheard := none }
    let apart : LineController := { free with recessiveRun := 0, reading := none }
    let stopped : CycleTimer := { phase := .stopped, cycle := s.ct.cycle, history := s.ct.history, slotIndex := none,
                                  position := none, role := .idle, proposal := none, listenWindow := none,
                                  opening := none }
    let records := fun (after : StationState) (reason : Reason) (own : EventRecord) (cause : AbandonCause) =>
      [.stateChanged s.sc.state after reason s.ct.cycle 0, own,
        .cuesAbandoned s.cq.records.length cause s.ct.cycle] ++
      s.ob.entries.map fun e => e.coverage .abandoned
    (∀ reason : FaultReason, s.enterLineFault reason = { s with
      sc := { s.sc with state := .lineFault, faultReason := some reason }
      ct := stopped, st := cleared, slot := .blank, cq := abandoned, cg := s.cg.underPolicy
      ob := { s.ob with entries := [] }, fb := empty, lc := apart
      ev := s.ev.offers (records .lineFault reason.toReason (.lineFault reason s.sc.state s.ct.cycle false)
        .lineFault) }) ∧
    (∀ reason : FaultReason, s.enterHalted reason = { s with
      sc := { s.sc with state := .halted, faultReason := some reason }
      ct := stopped, st := cleared, slot := .blank, cq := abandoned, cg := s.cg.underPolicy
      ob := { s.ob with entries := [] }, fb := empty, lc := apart
      ev := s.ev.offers (records .halted reason.toReason (.halted reason s.sc.state s.ct.cycle) .halted) }) ∧
    (∀ (reason : Reason) (own : EventRecord), s.resync reason own = { s with
      sc := { s.sc with state := .learning }
      st := cleared, slot := .blank, cq := abandoned
      ob := { s.ob with entries := [] }, fb := empty, lc := free
      ev := s.ev.offers (records .learning reason own .resync) })

/-- R8, R9, R11, R12, R152, R155: an opening whose shape byte was read whole and does not match halts the station; one
that matched, or was damaged there, and adopts an earlier number resynchronizes it and then ends. A damaged number field
is counted in both; at the *opening ends* of a shape byte with good framing no dominant run stands (R124, R128). That
the position is then 64 is the event's nominal offset (log entry 19). -/
def Obligations.OpeningEndHaltsOrResyncs : Prop :=
  ∀ (shape : Byte) (s : State) (o : Opening) (im : Image), s.ct.phase = .opening → s.ct.opening = some o →
    o.stage = .shape → s.sc.image = some im →
    let counted := fun (damaged : Bool) (t : State) =>
      if damaged then ({ t with counters := { t.counters with
        damagedOpenings := min 65535 (t.counters.damagedOpenings + 1) } } : State) else t
    (o.shapeDamaged = false → im.shapeMatches shape = false →
      exec (.openingEnds shape) s = .next ((counted o.numberDamaged s).enterHalted .shape)) ∧
    (o.shapeDamaged = true ∨ im.shapeMatches shape = true → o.backward = true → o.slip = 0 →
      exec (.openingEnds shape) s = .next (counted (o.numberDamaged || o.shapeDamaged)
        { s.resync .backward (.strayOpening .backward s.ct.cycle (some o.number)) with
          ct := { phase := .slots, cycle := o.number, history := .held, slotIndex := none, position := some 64,
                  role := .participant, proposal := none, listenWindow := none, opening := none }
          lc := { (s.resync .backward (.strayOpening .backward s.ct.cycle (some o.number))).lc with
                  dominantRun := if o.shapeDamaged then s.lc.dominantRun else 0 } }))

/-- R12 to R15, R124, R128, R152: a pulse of 11 to 39 bit times. In LISTENING with CT WAITING it starts an observed
opening; from outside the window, in SLOTS or in an opening past its own pulse, it is a stray opening: the station
resynchronizes and observes it. In CONFIG, LINE_FAULT and HALTED no opening pulse is recognized (R128, R131), and that
the row then changes nothing is the model's choice (log entry 5). That a damaged opening which a stray one cuts short is
counted nowhere is the model's choice (log entry 39). The pulse of the opening in which the station takes part, and any
pulse that ends while its own is driven, ends the dominant run and nothing else; so does a pulse that reaches a
LISTENING station in an opening, which is the model's choice (log entry 17). That an observed opening's position starts
at the pulse's length is log entry 19. Bad framing or a gap in the number field or the shape byte damages the field; in
the observed opening of a LISTENING station it ends the observation at once, is counted, and the listen window starts
anew. -/
def Obligations.PulsesAndOpeningDamage : Prop :=
  (∀ (run : Nat) (inWindow : Bool) (s : State), 11 ≤ run → run ≤ 39 →
     let observed : CycleTimer := { s.ct with
       phase := .opening, slotIndex := none, position := some run, role := .observer, proposal := none
       listenWindow := none
       opening := some { stage := .number, lost := false, numberDamaged := false, shapeDamaged := false, number := 0,
                         slip := 0, backward := false } }
     (s.sc.state = .listening → s.ct.phase = .waiting →
       exec (.openingPulse run inWindow) s = .next { s with ct := observed, lc := { s.lc with dominantRun := 0 } }) ∧
     (s.sc.state.cyclesRun = true →
       s.ct.phase = .slots ∨ (s.ct.phase = .opening ∧ ∃ o, s.ct.opening = some o ∧ o.stage ≠ .pulse) →
       let t := s.resync .stray (.strayOpening .outsideWindow s.ct.cycle none)
       exec (.openingPulse run false) s = .next { t with ct := observed, lc := { t.lc with dominantRun := 0 } }) ∧
     (s.sc.state.cyclesRun = true →
       exec (.openingPulse run true) s = .next { s with lc := { s.lc with dominantRun := 0 } }) ∧
     (∀ o, s.sc.state.cyclesRun = true → s.ct.phase = .opening → s.ct.opening = some o → o.stage = .pulse →
       exec (.openingPulse run inWindow) s = .next { s with lc := { s.lc with dominantRun := 0 } }) ∧
     (s.sc.state = .listening → s.ct.phase = .opening →
       exec (.openingPulse run inWindow) s = .next { s with lc := { s.lc with dominantRun := 0 } }) ∧
     (s.sc.state.onLine = false → exec (.openingPulse run inWindow) s = .next s)) ∧
  (∀ (s : State) (o : Opening), s.ct.phase = .opening → s.ct.opening = some o → o.stage ≠ .pulse →
     (s.sc.state ≠ .listening ∨ s.ct.role ≠ .observer →
       let damaged : Opening := if o.stage = .number then { o with numberDamaged := true }
         else { o with shapeDamaged := true }
       exec .openingFramingError s = .next { s with ct := { s.ct with opening := some damaged } } ∧
       exec .byteGap s = .next { s with ct := { s.ct with opening := some damaged } }) ∧
     (s.sc.state = .listening → s.ct.role = .observer →
       let again : State := { s with
         ct := { phase := .waiting, cycle := s.ct.cycle, history := s.ct.history, slotIndex := none, position := none,
                 role := .observer, proposal := none, listenWindow := some s.listenTime, opening := none }
         counters := { s.counters with damagedOpenings := min 65535 (s.counters.damagedOpenings + 1) } }
       exec .openingFramingError s = .next again ∧ exec .byteGap s = .next again))

/-! ## The slots (Chapters 2, 4 and 6) -/

/-- R1, R3, R21, R22, R67 to R69, R107, R115: the work of a slot beginning: every channel advances by one step, then
every record due at (c, s) leaves the queue, is retired FIRED and is applied, in queue order, and with the report-firing
flag set each is reported with the channel's level right after it. A slot begins with the slot index and its nominal
place, a blank slot report and that work, and then, in slot 0, the claim policy, or else the own frame when the slot is
held or was claimed in an earlier cycle. In CLAIMING with fewer than W slots held or claimed the lowest FREE slot is
claimed; with none FREE, NO_FREE_SLOT is reported once, in an order with CUE_FIRED records that is left open (R177, log
entry 6). LC turns to the slot: only a reception record opened for it in the guard stands (R132). The model's choices: a
frame of the slot that began and ended in the guard leaves its finding invalid, and a claim frame's start drops the
guard's record (log entry 36), whose bytes LC keeps aside (log entry 31), and the place is the nominal one after an
observed opening too (log entry 19). -/
def Obligations.SlotBeginsWithItsWork : Prop :=
  (∀ (s : State) (slot : Nat),
     let due := s.cq.records.filter fun r => r.dueCycle == s.ct.cycle && r.dueSlot == slot
     let after := fun rs : List CueRecord => rs.foldl (fun g r => g.drive r.channel r.action) s.cg.advance
     (∀ c, s.cg.advance.channels.get c = (s.cg.channels.get c).advance) ∧
     (s.slotWork slot).1 = { s with
       cq := { s.cq with
         records := s.cq.records.filter fun r => !(r.dueCycle == s.ct.cycle && r.dueSlot == slot)
         retired := due.foldl (fun l r => retire l r.id .fired) s.cq.retired }
       cg := after due } ∧
     (s.slotWork slot).2 = if s.ev.reportFiring then
         due.mapIdx fun i r => .cueFired r.id r.group r.position r.channel r.action r.dueCycle r.dueSlot
           ((after (due.take (i + 1))).channels.get r.channel).level
       else []) ∧
  (∀ (s : State) (slot : Nat), s.sc.state.cyclesRun = true → s.ct.phase = .slots →
     (s.ct.slotIndex = none ∧ slot = 0) ∨
       (s.ct.slotIndex = some (slot - 1) ∧ 1 ≤ slot ∧ s.slot.judged = true ∧ slot < s.slots) →
     let ahead : Bool := s.lc.reception.any fun r => r.slot == slot
     let begun : State := { s with
       ct := { s.ct with slotIndex := some slot, position := some (80 + slot * (10 * (s.payload + 5) + 20)) }
       slot := { SlotReport.blank with finding := if s.slot.early then some .invalid else none }
       lc := { s.lc with
         drive := .released, sending := .nothing, arbitration := .outside, heldMismatch := false
         crc := if ahead then s.lc.crc else none
         reception := if ahead then s.lc.reception else none
         overheard := none } }
     let t := (begun.slotWork slot).1
     let fired := (begun.slotWork slot).2
     let reported := { t with ev := t.ev.offers fired }
     let wants : Prop := s.sc.state = .claiming ∧ s.heldCount + s.claimedCount < s.wanted
     let noneFree : Prop := ∀ k, 1 ≤ k → k ≤ s.st.entries.length → s.st.view k ≠ .free
     (slot ≠ 0 →
       let own : Prop := (∃ n, s.st.view slot = .held s.self n ∧ s.sc.state.stages = true) ∨
         (∃ k, s.st.view slot = .claimed s.self k ∧ later s.ct.cycle k = true ∧
           (s.sc.state = .claiming ∨ s.sc.state = .active))
       (own → exec .slotBegins s = .next (reported.fixSlotFrame slot)) ∧
       (¬own → exec .slotBegins s = .next reported)) ∧
     (slot = 0 →
       (∀ r, wants → s.st.entries[r - 1]?.map SlotEntry.view = some .free → 1 ≤ r →
         (∀ k, 1 ≤ k → k < r → s.st.view k ≠ .free) →
         exec .slotBegins s = .next { reported with
           st := { s.st with reportArmed := true }
           fb := { s.fb with transmission := some { kind := .claim r, cycleCheck := s.ct.cycle.setWidth 8, items := [] } }
           lc := { s.lc.release with drive := .driving, sending := .claim,
                                     crc := some 0xFFFF, overheard := if ahead then s.lc.reception else none } }) ∧
       (wants → noneFree → s.st.reportArmed = true → ∃ (records : List EventRecord) (choices : Nat),
         Interleaves records fired [.noFreeSlot s.ct.cycle s.heldCount s.claimedCount] ∧
         exec .slotBegins s = .next { t with
           st := { s.st with reportArmed := false }, ev := t.ev.offers records, choices := choices }) ∧
       (wants → noneFree → s.st.reportArmed = false → exec .slotBegins s = .next reported) ∧
       (¬wants → noneFree → exec .slotBegins s = .next reported) ∧
       (¬wants → ¬noneFree → exec .slotBegins s = .next { reported with st := { s.st with reportArmed := true } })))

/-- R92, R100, R108 to R112, R126: which outbox entries are offered to a slot frame: the QUEUED ones and the SENT ones
eligible for a retry, in order of creation, less every CUE whose serial an open CANCEL holds. What the frame is fixed
with: in LEAVING the RELEASE first, then the oldest acknowledgements up to the limit of R111, then CANCEL items, then
CUE items, the last two only outside LEAVING and each as many as fit in P bytes of items; the staged verdicts carried
are in flight, the entries carried are SENDING, and LC starts the frame, dropping a reception record of the guard (log
entry 36), whose bytes it keeps aside (log entry 31). An entry as an item: a CANCEL with its serial; a CUE at a first
send with RETRY clear and its lead, at a retry with RETRY set and the due cycle less the current cycle. -/
def Obligations.SlotFrameContent : Prop :=
  (∀ s : State, s.ready.Sublist s.ob.entries ∧ ∀ e ∈ s.ob.entries,
     (e ∈ s.ready ↔
       (e.state = .queued ∨
         (e.state = .sent ∧ ∃ d, e.send = some d ∧ d.attempts < 1 + s.retryLimit ∧
           earlier s.ct.cycle (ahead d.lastSend 2) = false ∧
           (∀ t pending, e.kind = .cue t pending → later (ahead d.firstSend t.lead) s.ct.cycle = true) ∧
           ∃ z ∈ d.expected, answerOf d.answers z = none ∨ answerOf d.answers z = some .queueFull)) ∧
       ¬(e.isCue = true ∧ ∃ c ∈ s.ob.entries, c.isCue = false ∧ c.serial = e.serial))) ∧
  (∀ (now : Cycle) (e : OutEntry),
     (∀ t pending, e.kind = .cue t pending → e.cancelItem = none ∧
       (e.send = none → e.cueItem now = some (.cue e.serial false t.lead t.contents)) ∧
       (∀ d, e.send = some d → e.cueItem now =
         some (.cue e.serial true (d.firstSend + BitVec.ofNat 32 t.lead - now).toNat t.contents))) ∧
     (e.kind = .cancel → e.cancelItem = some (.cancel e.serial) ∧ e.cueItem now = none)) ∧
  (∀ (s : State) (slot : Nat) (im : Image), s.sc.image = some im →
     let leaving : Bool := s.sc.state == .leaving
     let room := im.payload.toNat
     let limit := if leaving then (room - 2) / 4 else if s.ready.isEmpty then room / 4 else room / 2 / 4
     let size := fun items : List TxItem => (items.flatMap TxItem.bytes).length
     let offered := if leaving then [] else s.ready
     let allCancels := offered.filterMap OutEntry.cancelItem
     let allCues := offered.filterMap (OutEntry.cueItem s.ct.cycle)
     let first := (if leaving then [TxItem.release slot] else []) ++
       (s.fb.staging.take limit).map fun e => TxItem.ack e.id e.verdict
     ∃ cancels cues : List TxItem, cancels <+: allCancels ∧ cues <+: allCues ∧
       size (first ++ cancels ++ cues) ≤ room ∧
       (cancels ≠ allCancels → room < size (first ++ cancels) + 3) ∧
       (cues ≠ allCues → room < size (first ++ cancels ++ cues) + 12) ∧
       s.fixSlotFrame slot = { s with
         fb := { staging := (s.fb.staging.take limit).map (fun e => { e with flight := .inFlight }) ++
                   s.fb.staging.drop limit
                 transmission := some { kind := .slot slot, cycleCheck := s.ct.cycle.setWidth 8,
                                        items := first ++ cancels ++ cues } }
         ob := { s.ob with entries := s.ob.entries.map fun e =>
           if (first ++ cancels ++ cues).any (TxItem.carries e.cueKind e.serial) then { e with state := .sending }
           else e }
         lc := { s.lc with drive := .driving, sending := .slot, arbitration := .outside, heldMismatch := false,
                           crc := some 0xFFFF, reception := none, overheard := s.lc.reception } })

/-- R3, R20, R127, R133: a slot ends: it is judged at once, and no reception record stands, or, with a frame still being
received, when that frame has ended, LC holding its bytes and the CRC of those before the CRC bytes. The slot's
arbitration field is past (R123). The judgement is made on the report of the own frame, or on LC's finding. That the
position is the nominal end of the frame region after an observed opening too is the model's choice (log entry 19). -/
def Obligations.SlotEndJudges : Prop :=
  ∀ (s : State) (slot : Nat), s.ct.slotIndex = some slot → s.sc.state.cyclesRun = true → s.ct.phase = .slots →
    s.slot.judged = false → s.fb.transmission = none →
    let ended : State := { s with ct := { s.ct with
      position := some (80 + slot * (10 * (s.payload + 5) + 20) + 10 * (s.payload + 5)) } }
    let t : State := { ended with lc := { s.lc with reception := none, crc := none, arbitration := .outside } }
    let judged := fun u : State => ({ u with slot := { u.slot with judged := true } } : State)
    exec (.slotEnds none) s = .next t.judge ∧
    (∀ bytes, s.listens = false → exec (.slotEnds (some bytes)) s = .next t.judge) ∧
    (∀ bytes, s.listens = true → exec (.slotEnds (some bytes)) s = .next { ended with
      slot := { s.slot with ended := true }
      lc := { s.lc with arbitration := .outside
                        crc := some (crc16 (match expectedBytes slot bytes with
                          | none => bytes
                          | some n => bytes.take (n - 2)))
                        reception := some { slot := slot, bytes := bytes, framing := false
                                            expected := expectedBytes slot bytes } } }) ∧
    (∀ r, s.slot.own = .claimCompleted r → t.judge = judged (t.applyClaim r s.self.toNat)) ∧
    (s.slot.own = .completed true → t.judge = judged t) ∧
    (s.slot.own = .completed false → t.judge = judged (t.judgeCompleted slot)) ∧
    (s.slot.own = .bitError → t.judge = judged (t.judgeBroken slot)) ∧
    (s.slot.own = .silent ∨ s.slot.own = .arbitrationLost →
      (∀ r c, s.slot.finding = some (.claim r c) → t.judge = judged (t.applyClaim r.toNat c.toNat)) ∧
      (∀ z, s.slot.finding = some (.slotFrame z) →
        t.judge = judged (s.slot.releases.foldl (State.applyRelease z) (t.seeOwner slot z))) ∧
      (s.slot.finding = none ∨ s.slot.finding = some .invalid → t.judge = judged (t.seeSilence slot)))

/-- R148, R150, R156: SC's check of the counts: CLAIMING becomes ACTIVE with W slots held, ACTIVE becomes CLAIMING with
fewer, LEAVING becomes QUIET with none held and none claimed, and the staging list is then emptied; nothing else
moves. -/
def Obligations.CountCheckMovesStation : Prop :=
  ∀ s : State,
    let moved := fun (after : StationState) (reason : Reason) (staging : List Staged) => ({ s with
      sc := { s.sc with state := after }
      fb := { s.fb with staging := staging }
      ev := s.ev.offer (.stateChanged s.sc.state after reason s.ct.cycle s.heldCount) } : State)
    (s.sc.state = .claiming → s.wanted ≤ s.heldCount → s.checkCounts = moved .active .slotsFull s.fb.staging) ∧
    (s.sc.state = .claiming → s.heldCount < s.wanted → s.checkCounts = s) ∧
    (s.sc.state = .active → s.heldCount < s.wanted → s.checkCounts = moved .claiming .slotShort s.fb.staging) ∧
    (s.sc.state = .active → s.wanted ≤ s.heldCount → s.checkCounts = s) ∧
    (s.sc.state = .leaving → s.heldCount = 0 → s.claimedCount = 0 → s.checkCounts = moved .quiet .left []) ∧
    (s.sc.state = .leaving → ¬(s.heldCount = 0 ∧ s.claimedCount = 0) → s.checkCounts = s) ∧
    (s.sc.state.stages = false → s.checkCounts = s)

/-- R39, R99: a peer's HELD entry is lost. While it holds another slot, or has no record, nothing follows; else its
record goes, PEER_LOST carries the reason and when it was last heard, and each outbox entry in whose expected set it
is unanswered loses it there with any QUEUE_FULL answer, and closes COMPLETE when that completes it. That PEER_LOST
stands before those COVERAGE records is the model's choice (log entry 8). R102: what a COVERAGE record carries: the
entry's kind and serial, the outcome, and from the first send on the number expected, how many of them gave each answer
of the kind, the departed, the self verdict and the expected stations that are unanswered. -/
def Obligations.DepartureFollowsLastSlot : Prop :=
  (∀ (s : State) (z : Station) (slot : Nat) (reason : LossReason),
    let departed := fun e : OutEntry => { e with send := e.send.map fun d =>
      { d with expected := d.expected.filter (· != z), answers := d.answers.filter (fun a => a.1 != z),
               departed := d.departed + 1 } }
    (s.st.heldSlots z ≠ [] ∨ s.st.peer z = none → s.loseHeld z slot reason = s) ∧
    (∀ p, s.st.heldSlots z = [] → s.st.peer z = some p → s.loseHeld z slot reason = { s with
      st := { s.st with roster := s.st.roster.filter fun q => q.station != z }
      ob := { s.ob with entries := s.ob.entries.filterMap fun e =>
        if z ∈ e.unanswered then (if (departed e).unanswered = [] then none else some (departed e)) else some e }
      ev := s.ev.offers (.peerLost z slot reason s.ct.cycle p.lastHeard :: s.ob.entries.filterMap fun e =>
        if z ∈ e.unanswered ∧ (departed e).unanswered = [] then some ((departed e).coverage .complete) else none) })) ∧
  (∀ (e : OutEntry) (outcome : Outcome), ∃ c : Coverage, e.coverage outcome = .coverage c ∧
    c.kind = (if e.isCue then .cue else .cancel) ∧ c.serial = e.serial ∧ c.outcome = outcome ∧
    c.selfVerdict = e.selfVerdict ∧
    (e.send = none → c.expected = 0 ∧ c.departed = 0 ∧ c.missing = [] ∧ ∀ n ∈ c.counts, n = 0) ∧
    (∀ d, e.send = some d →
      let gave := fun v : Verdict => (d.expected.filter fun z => answerOf d.answers z == some v).length
      c.expected = d.expected.length ∧ c.departed = d.departed ∧
      c.counts = (if e.isCue then [gave .accepted, gave .notMine, gave .duplicate, gave .queueFull]
        else [gave .cancelled, gave .tooLate, gave .unknown]) ∧
      c.missing.Sublist d.expected ∧
      ∀ z, z ∈ c.missing ↔
        z ∈ d.expected ∧ (answerOf d.answers z = none ∨ answerOf d.answers z = some .queueFull)))

/-- R27, R28: a slot with no frame or an invalid one: a FREE entry and a claim of this cycle stand; an older claim
falls; a HELD entry counts one more silence, and at the silence limit K falls LAPSED. That an own HELD entry at the limit
falls with the count check and no SLOT_LOST is the model's choice (log entry 25). A RELEASE of slot r by station z: a
claim of z's falls; a HELD entry of z's falls and the station may have left, RELEASED; any other entry stands. -/
def Obligations.SilenceAndReleaseJudged : Prop :=
  (∀ (s : State) (slot : Nat) (e : SlotEntry), 1 ≤ slot → s.st.entries[slot - 1]? = some e →
     let put := fun e1 : SlotEntry => ({ s with st := { s.st with entries := s.st.entries.set (slot - 1) e1 } } : State)
     let freed := put { view := .free, failures := 0 }
     s.seeSilence 0 = s ∧
     (e.view = .free → s.seeSilence slot = s) ∧
     (∀ c k, e.view = .claimed c k → later s.ct.cycle k = false → s.seeSilence slot = s) ∧
     (∀ c k, e.view = .claimed c k → later s.ct.cycle k = true → c ≠ s.self → s.seeSilence slot = freed) ∧
     (∀ k, e.view = .claimed s.self k → later s.ct.cycle k = true → s.seeSilence slot = freed.checkCounts) ∧
     (∀ z n, e.view = .held z n → n + 1 < s.silenceLimit →
       s.seeSilence slot = put { view := .held z (n + 1), failures := e.failures }) ∧
     (∀ z n, e.view = .held z n → s.silenceLimit ≤ n + 1 → z ≠ s.self →
       s.seeSilence slot = freed.loseHeld z slot .lapsed) ∧
     (∀ n, e.view = .held s.self n → s.silenceLimit ≤ n + 1 → s.seeSilence slot = freed.checkCounts)) ∧
  (∀ (s : State) (z : Station) (r : Nat), 1 ≤ r →
     let freed : State := { s with st := { s.st with
       entries := s.st.entries.set (r - 1) { view := .free, failures := 0 } } }
     ((s.st.view r).owner ≠ some z → State.applyRelease z s r = s) ∧
     (∀ k, s.st.view r = .claimed z k → State.applyRelease z s r = freed) ∧
     (∀ n, s.st.view r = .held z n → State.applyRelease z s r = freed.loseHeld z r .released))

/-- R24, R36, R139: a claim of slot r by station c: a slot out of range changes no entry; this station's own entry
stands against a peer's claim; any other entry becomes CLAIMED by c in this cycle, and a peer that held it is
displaced. A claimer that is PRESENT has its last-heard cycle updated, after a loss that the claim brings, so that a
PEER_LOST for the claimer itself carries the cycle from before it: the model's choice (log entry 30). -/
def Obligations.ClaimRecorded : Prop :=
  ∀ (s : State) (r : Nat) (c : Station),
    let touched := fun t : State => ({ t with st := { t.st with roster := t.st.roster.map fun p =>
      if p.station = c then { p with lastHeard := s.ct.cycle } else p } } : State)
    let put : State := { s with st := { s.st with
      entries := s.st.entries.set (r - 1) { view := .claimed c s.ct.cycle, failures := 0 } } }
    (r = 0 ∨ s.slots ≤ r → s.applyClaim r c.toNat = touched s) ∧
    (1 ≤ r → r < s.slots → c ≠ s.self →
      (∀ n, s.st.view r = .held s.self n → s.applyClaim r c.toNat = touched s) ∧
      (∀ k, s.st.view r = .claimed s.self k → s.applyClaim r c.toNat = touched s) ∧
      (s.st.view r = .free → s.applyClaim r c.toNat = touched put) ∧
      (∀ y k, s.st.view r = .claimed y k → y ≠ s.self → s.applyClaim r c.toNat = touched put) ∧
      (∀ y n, s.st.view r = .held y n → y ≠ s.self →
        s.applyClaim r c.toNat = touched (put.loseHeld y r .displaced))) ∧
    (1 ≤ r → r < s.slots → c = s.self →
      (∀ y n, s.st.view r = .held y n → y ≠ s.self →
        s.applyClaim r c.toNat = touched (put.loseHeld y r .displaced).checkCounts) ∧
      ((∀ y n, s.st.view r = .held y n → y = s.self) → s.applyClaim r c.toNat = touched put.checkCounts))

/-- R26, R37 to R39: a valid slot frame of station z makes its slot HELD by z with no silence. A station with a record
has its last-heard cycle updated; one without joins the roster, with PEER_JOINED; a peer that held the slot is
displaced, and the COVERAGE records of its departure stand in an order with PEER_JOINED that is left open (R177, log
entry 6). An own entry so overridden is passed to SC's count check first. The model's choices: STATE_CHANGED stands
before PEER_JOINED (log entry 9), an own HELD entry is overridden with no SLOT_LOST (log entry 25), and PEER_LOST stands
before the COVERAGE records of the departure (log entry 8). -/
def Obligations.OwnerSeen : Prop :=
  ∀ (s : State) (slot : Nat) (z : Station), 1 ≤ slot → z ≠ s.self →
    let put : State := { s with st := { s.st with
      entries := s.st.entries.set (slot - 1) { view := .held z 0, failures := 0 } } }
    let known : Prop := ∃ p ∈ s.st.roster, p.station = z
    let touched := fun t : State => ({ t with st := { t.st with roster := t.st.roster.map fun p =>
      if p.station = z then { p with lastHeard := s.ct.cycle } else p } } : State)
    let joined := fun (t : State) (records : List EventRecord) => ({ t with
      st := { t.st with roster := insertPeer { station := z, joined := s.ct.cycle, lastHeard := s.ct.cycle } t.st.roster }
      ev := t.ev.offers records } : State)
    let own : Prop := (s.st.view slot).owner = some s.self
    let other : Prop := ∃ y n, s.st.view slot = .held y n ∧ y ≠ z ∧ y ≠ s.self
    (known → own → s.seeOwner slot z = touched put.checkCounts) ∧
    (known → ¬own → ¬other → s.seeOwner slot z = touched put) ∧
    (∀ y n, known → s.st.view slot = .held y n → y ≠ z → y ≠ s.self →
      s.seeOwner slot z = touched (put.loseHeld y slot .displaced)) ∧
    (¬known → own → s.seeOwner slot z = joined put.checkCounts [.peerJoined z slot s.ct.cycle]) ∧
    (¬known → ¬own → ¬other → s.seeOwner slot z = joined put [.peerJoined z slot s.ct.cycle]) ∧
    (∀ y n, ¬known → s.st.view slot = .held y n → y ≠ z → y ≠ s.self →
      ∃ (records : List EventRecord) (choices : Nat),
        Interleaves records (put.peerGone y slot .displaced).2 [.peerJoined z slot s.ct.cycle] ∧
        s.seeOwner slot z = { joined (put.peerGone y slot .displaced).1 records with choices := choices })

/-- R29, R30, R33: the judgement of a slot on the own frame. Completed: the silence becomes 0, and a claim becomes HELD,
with SLOT_GAINED. A bit error: below K failures the silence becomes the failure count, at K the slot falls LAPSED,
with SLOT_LOST; a claim falls. The held count in the records and in SC's check is the one after the change. -/
def Obligations.OwnFrameJudged : Prop :=
  ∀ (s : State) (slot : Nat) (e : SlotEntry), 1 ≤ slot → s.st.entries[slot - 1]? = some e →
    let put := fun e1 : SlotEntry => ({ s with st := { s.st with entries := s.st.entries.set (slot - 1) e1 } } : State)
    let freed := put { view := .free, failures := 0 }
    let gained := put { view := .held s.self 0, failures := 0 }
    (∀ n, e.view = .held s.self n →
      s.judgeCompleted slot = put { view := .held s.self 0, failures := e.failures }) ∧
    (∀ k, e.view = .claimed s.self k →
      s.judgeCompleted slot = State.checkCounts { gained with
        ev := s.ev.offer (.slotGained slot s.ct.cycle gained.heldCount) }) ∧
    (∀ n, e.view = .held s.self n → e.failures < s.silenceLimit →
      s.judgeBroken slot = put { view := .held s.self e.failures, failures := e.failures }) ∧
    (∀ n, e.view = .held s.self n → s.silenceLimit ≤ e.failures →
      s.judgeBroken slot = State.checkCounts { freed with
        ev := s.ev.offer (.slotLost slot .lapsed s.ct.cycle freed.heldCount) }) ∧
    (∀ k, e.view = .claimed s.self k → s.judgeBroken slot = freed.checkCounts) ∧
    (e.view.owner ≠ some s.self → s.judgeCompleted slot = s ∧ s.judgeBroken slot = s)

/-! ## The frames (Chapters 5, 6 and 7) -/

/-- R32, R106, R113, R117, R126: the own slot frame completes: the staged verdicts in flight leave the list but those
replaced meanwhile, its items are taken as sent in their order, the failure count of its slot becomes 0, and a RELEASE
frees the own slot at once, with SLOT_LOST. That SLOT_LOST stands after the COVERAGE records of the frame's items is the
model's choice (log entry 7). -/
def Obligations.SlotFrameCompletes : Prop :=
  ∀ (s : State) (f : TxFrame) (slot : Nat) (e : SlotEntry), s.fb.transmission = some f → f.kind = .slot slot →
    1 ≤ slot → s.st.entries[slot - 1]? = some e →
    let sent : State := f.items.foldl State.itemSent { s with fb := { s.fb with
      staging := (s.fb.staging.filter fun g => g.flight != .inFlight).map fun g => { g with flight := .waiting } } }
    let released : Bool := f.items.any fun i => match i with
      | .release _ => true
      | _ => false
    let put := fun e1 : SlotEntry => ({ sent with
      st := { s.st with entries := s.st.entries.set (slot - 1) e1 }
      fb := { sent.fb with transmission := none }
      lc := s.lc.release
      slot := { s.slot with own := .completed released } } : State)
    let kept := put { e with failures := 0 }
    let freed := put { view := .free, failures := 0 }
    (released = false → exec .frameCompletes s = .next kept) ∧
    (released = true → e.view.heldBy s.self = true → exec .frameCompletes s = .next (State.checkCounts { freed with
      ev := sent.ev.offer (.slotLost slot .released s.ct.cycle freed.heldCount) })) ∧
    (released = true → e.view.heldBy s.self = false → exec .frameCompletes s = .next kept)

/-- R56 to R58, R89, R93, R98, R104: the first send of a CUE entry that no cancel waits for: attempts 1, first and last
send this cycle, the deadline at the smaller of D and the lead, the PRESENT stations expected; the cue is offered to the
own queue, whose verdict becomes the self verdict, and the entry closes COMPLETE at once when nobody is expected. The
first send of a CANCEL entry: the same with the deadline at D; the own queue takes the cancel unless it was searched
when the entry was created, and its verdict becomes the self verdict. The first send of a withdraw-pending CUE entry:
after the cue's own steps the pending cancel is applied to the own queue, which retires the id CANCELLED or, finding no
record, CANCEL_FIRST, and the CANCEL entry takes that verdict; the entry is no longer withdraw-pending, and closes
COMPLETE when nobody is expected. In a station that no longer talks the CANCEL entry then closes WITHDRAWN (R104). The
model's choices: its record stands after the CUE entry's (log entry 14); an older record of the id that the queue still
holds is the one the pending cancel removes, whatever the offer gave (log entry 37); and with none held the id is
retired CANCEL_FIRST whatever the retired list held (log entry 15). -/
def Obligations.FirstSends : Prop :=
  (∀ (s : State) (n : Serial) (t : CueTemplate) (e : OutEntry), s.ob.Lawful → s.ob.find .cue n = some e →
     e.kind = .cue t false → e.send = none → e.selfVerdict = none →
     let own := s.cq.takeCue s.ct.cycle
       { id := { originator := s.self, serial := n }, retry := false, lead := t.lead, contents := t.contents }
     let sent : OutEntry := { e with
       state := .sent
       send := some { attempts := 1, firstSend := s.ct.cycle, lastSend := s.ct.cycle
                      deadline := s.ct.cycle + BitVec.ofNat 32 (min s.window t.lead)
                      expected := s.st.roster.map Peer.station, answers := [], departed := 0 }
       selfVerdict := some own.2.1 }
     s.cueFirstSend n t false = { s with
       cq := own.1
       ob := { s.ob with entries :=
         if s.st.roster = [] then s.ob.entries.filter fun x => !x.named .cue n
         else s.ob.entries.map fun x => if x.named .cue n then sent else x }
       ev := s.ev.offers (own.2.2 ++ if s.st.roster = [] then [sent.coverage .complete] else []) }) ∧
  (∀ (s : State) (n : Serial) (e : OutEntry), s.ob.Lawful → s.ob.find .cancel n = some e → e.send = none →
     let own := s.cq.takeCancel { originator := s.self, serial := n }
     let sent : OutEntry := { e with
       state := .sent
       send := some { attempts := 1, firstSend := s.ct.cycle, lastSend := s.ct.cycle
                      deadline := s.ct.cycle + BitVec.ofNat 32 s.window
                      expected := s.st.roster.map Peer.station, answers := [], departed := 0 }
       selfVerdict := if e.selfVerdict = none then some own.2 else e.selfVerdict }
     s.cancelFirstSend n e.selfVerdict = { s with
       cq := if e.selfVerdict = none then own.1 else s.cq
       ob := { s.ob with entries :=
         if s.st.roster = [] then s.ob.entries.filter fun x => !x.named .cancel n
         else s.ob.entries.map fun x => if x.named .cancel n then sent else x }
       ev := s.ev.offers (if s.st.roster = [] then [sent.coverage .complete] else []) }) ∧
  (∀ (s : State) (n : Serial) (t : CueTemplate) (e c : OutEntry), s.ob.Lawful → s.ob.find .cue n = some e →
     s.ob.find .cancel n = some c → e.kind = .cue t true → e.send = none → e.selfVerdict = none →
     c.selfVerdict = none →
     let id : CueId := { originator := s.self, serial := n }
     let own := s.cq.takeCue s.ct.cycle { id := id, retry := false, lead := t.lead, contents := t.contents }
     let cancelled : CueQueue × Verdict :=
       if own.1.holds id then
         ({ own.1 with records := own.1.records.filter fun r => r.id != id
                       retired := retireAll own.1.retired ((own.1.records.filter fun r => r.id == id).map CueRecord.id)
                         .cancelled }, .cancelled)
       else ({ own.1 with retired := retire own.1.retired id .cancelFirst }, .unknown)
     let sent : OutEntry := { e with
       kind := .cue t false, state := .sent
       send := some { attempts := 1, firstSend := s.ct.cycle, lastSend := s.ct.cycle
                      deadline := s.ct.cycle + BitVec.ofNat 32 (min s.window t.lead)
                      expected := s.st.roster.map Peer.station, answers := [], departed := 0 }
       selfVerdict := some own.2.1 }
     let told : OutEntry := { c with selfVerdict := some cancelled.2 }
     let put := fun x : OutEntry => if x.named .cue n then sent else if x.named .cancel n then told else x
     let stays := fun x : OutEntry =>
       !(x.named .cue n && s.st.roster.isEmpty) && !(x.named .cancel n && !s.sc.state.talking)
     s.cueFirstSend n t true = { s with
       cq := cancelled.1
       ob := { s.ob with entries := (s.ob.entries.filter stays).map put }
       ev := s.ev.offers (own.2.2 ++ (if s.st.roster = [] then [sent.coverage .complete] else []) ++
         if s.sc.state.talking then [] else [told.coverage .withdrawn]) })

/-- R56, R93, R94, R97, R117: which send an item of a completed own frame is: a SENDING entry without send data is sent
for the first time, one with send data is retried; acknowledgements and releases touch no entry. A retry of a CUE
entry: attempts one more and the last send this cycle, and the cue is offered to the own queue as a RETRY with the
lead it carried: a verdict of the cue class goes to the entry's self verdict by the table of R97, CANCELLED to that
of the CANCEL entry of the serial, if one is open. A retry of a CANCEL entry touches the entry alone. -/
def Obligations.SentItemsAndRetries : Prop :=
  (∀ (s : State) (n : Serial),
     (∀ slot, s.itemSent (.release slot) = s) ∧ (∀ id v, s.itemSent (.ack id v) = s) ∧
     (∀ retry lead contents e t pending, s.ob.find .cue n = some e → e.kind = .cue t pending → e.state = .sending →
       (e.send = none → s.itemSent (.cue n retry lead contents) = s.cueFirstSend n t pending) ∧
       (e.send ≠ none → s.itemSent (.cue n retry lead contents) = s.cueRetrySent n t lead)) ∧
     (∀ e, s.ob.find .cancel n = some e → e.state = .sending →
       (e.send = none → s.itemSent (.cancel n) = s.cancelFirstSend n e.selfVerdict) ∧
       (e.send ≠ none → s.itemSent (.cancel n) = s.cancelRetrySent n)) ∧
     (∀ retry lead contents, s.ob.find .cue n = none → s.itemSent (.cue n retry lead contents) = s) ∧
     (s.ob.find .cancel n = none → s.itemSent (.cancel n) = s)) ∧
  (∀ (s : State) (n : Serial) (t : CueTemplate) (lead : Nat),
     let again := fun x : OutEntry => { x with
       state := .sent
       send := x.send.map fun d => { d with attempts := d.attempts + 1, lastSend := s.ct.cycle } }
     let own := s.cq.takeCue s.ct.cycle
       { id := { originator := s.self, serial := n }, retry := true, lead := lead, contents := t.contents }
     let told := fun x : OutEntry =>
       if x.named own.2.1.kind n then { x with selfVerdict := takeVerdict x.selfVerdict own.2.1 } else x
     s.cueRetrySent n t lead = { s with
       cq := own.1
       ob := { s.ob with entries := s.ob.entries.map fun x => told (if x.named .cue n then again x else x) }
       ev := s.ev.offers own.2.2 } ∧
     s.cancelRetrySent n = { s with
       ob := { s.ob with entries := s.ob.entries.map fun x => if x.named .cancel n then again x else x } })

/-- R31, R89, R95, R118, R119, R127, R132, R177: the own slot frame fails. In either case the staged verdicts stay and
its entries are taken back; a bit error counts one failure, of the slot too when it is held; a header loss opens a
reception record with the bytes already on the line, the accumulator taken over those before the CRC, and frees the own
entry at once, DISPLACED. The entries are gone through in order of creation, and so are their COVERAGE records (R177): a
retry's entry becomes SENT; a first send's becomes QUEUED in a station that talks, and closes WITHDRAWN when it is
withdraw-pending, with the CANCEL entry of its serial, or when the station no longer talks; every other entry stays. The
model's choices: those records stand before SLOT_LOST (log entry 7), LC has kept the bytes already on the line while it
sent (log entry 31), and an early finding of the slot is dropped at the loss (log entry 36). -/
def Obligations.SlotFrameFails : Prop :=
  (∀ (s : State) (f : TxFrame) (slot : Nat) (e : SlotEntry), s.fb.transmission = some f → f.kind = .slot slot →
     1 ≤ slot → s.st.entries[slot - 1]? = some e →
     let kept : State := { s with fb := { s.fb with
       staging := s.fb.staging.map fun g => { g with flight := .waiting } } }
     let failed := kept.itemsFailed f.items
     let ended := fun (slot : SlotReport) (entries : List SlotEntry) => ({ failed with
       st := { s.st with entries := entries }
       fb := { failed.fb with transmission := none }
       slot := slot } : State)
     let broken := ended { s.slot with own := .bitError }
       (if e.view.heldBy s.self then s.st.entries.set (slot - 1) { e with failures := e.failures + 1 }
         else s.st.entries)
     let beaten : State := ended { s.slot with own := .arbitrationLost, finding := none }
       (if e.view.owner = some s.self then s.st.entries.set (slot - 1) { view := .free, failures := 0 }
         else s.st.entries)
     exec .bitError s = .next { broken with
       lc := s.lc.release
       counters := { s.counters with ownFailures := min 65535 (s.counters.ownFailures + 1) } } ∧
     let read : List Byte := (s.lc.overheard.map Reception.bytes).getD []
     let expected : Option Nat := if read.length < 3 then none else some ((byteAt read 2).toNat + 5)
     let listening : LineController := { s.lc.release with
       arbitration := .lost
       crc := some (crc16 (match expected with
         | none => read
         | some n => read.take (n - 2)))
       reception := some { slot := slot, bytes := read, expected := expected
                           framing := s.lc.overheard.any Reception.framing } }
     (e.view.heldBy s.self = true → exec .headerArbitrationLost s = .next (State.checkCounts { beaten with
       lc := listening, ev := failed.ev.offer (.slotLost slot .displaced s.ct.cycle beaten.heldCount) })) ∧
     (e.view.claimedBy s.self = true →
       exec .headerArbitrationLost s = .next (State.checkCounts { beaten with lc := listening })) ∧
     (e.view.owner ≠ some s.self →
       exec .headerArbitrationLost s = .next { beaten with lc := listening })) ∧
  (∀ (s : State) (items : List TxItem),
     ∃ (kept : OutEntry → Option OutEntry) (closed : OutEntry → Option EventRecord),
     s.itemsFailed items = { s with
       ob := { s.ob with entries := s.ob.entries.filterMap kept }
       ev := s.ev.offers (s.ob.entries.filterMap closed) } ∧
     ∀ e ∈ s.ob.entries,
       let carried := fun (kind : CueKind) (n : Serial) => ∃ i ∈ items,
         (kind = .cancel ∧ i = .cancel n) ∨ (kind = .cue ∧ ∃ retry lead contents, i = .cue n retry lead contents)
       let ofPending : Prop := e.kind = .cancel ∧ carried .cue e.serial ∧ ∃ c ∈ s.ob.entries, ∃ t,
         c.kind = .cue t true ∧ c.serial = e.serial ∧ c.state = .sending ∧ c.send = none
       let stays := fun x : OutEntry => kept e = some x ∧ closed e = none
       let closes := fun x : OutEntry => kept e = none ∧ closed e = some (x.coverage .withdrawn)
       (¬carried e.cueKind e.serial → ¬ofPending → stays e) ∧
       (¬carried e.cueKind e.serial → ofPending → closes e) ∧
       (carried e.cueKind e.serial → e.state = .sending →
         (e.send ≠ none → stays { e with state := .sent }) ∧
         (e.send = none → s.sc.state.talking = true → e.withdrawPending = false → stays { e with state := .queued }) ∧
         (e.send = none → s.sc.state.talking = false ∨ e.withdrawPending = true →
           closes { e with state := .queued })))

/-- R116, R126, R127, R132: the three outcomes of an own claim frame: completed, to be recorded at the slot's end;
arbitration lost, counted as a claim loss, the slot's finding still to come, a reception record open at once with the
bytes already on the line and the accumulator taken over those before the CRC; a bit error, counted as an own failure.
The model's choices: those bytes are what LC has kept of the line while it sent and then what the row tells (log entry
31), and an early finding of the slot is dropped at the loss (log entry 36). -/
def Obligations.ClaimFrameOutcomes : Prop :=
  ∀ (s : State) (f : TxFrame) (r : Nat), s.fb.transmission = some f → f.kind = .claim r →
    let ended := fun (own : OwnOutcome) => ({ s with
      fb := { s.fb with transmission := none }
      lc := { s.lc with drive := .released, sending := .nothing, arbitration := .outside, heldMismatch := false,
                        crc := none, reception := none, overheard := none }
      slot := { s.slot with own := own } } : State)
    exec .claimCompletes s = .next (ended (.claimCompleted r)) ∧
    exec .claimBitError s = .next { ended .bitError with
      counters := { s.counters with ownFailures := min 65535 (s.counters.ownFailures + 1) } } ∧
    ∀ read : List Byte,
      let before := (s.lc.overheard.map Reception.bytes).getD [] ++ read
      exec (.claimArbitrationLost read) s = .next { ended .arbitrationLost with
        slot := { s.slot with own := .arbitrationLost, finding := none }
        counters := { s.counters with claimLosses := min 65535 (s.counters.claimLosses + 1) }
        lc := { (ended .arbitrationLost).lc with
          arbitration := .lost, crc := some ((before.take 3).foldl crcByte 0xFFFF)
          reception := some { slot := 0, bytes := before, expected := some 5
                              framing := s.lc.overheard.any Reception.framing } } }

/-- R124, R132 to R139: a received frame in a slot where LC listens. One that is not valid is counted by its cause and
noted; an item length above P drops the frame's later bytes too; a frame with this station's own number halts it, TWIN,
but for a slot frame after an own frame there that lost the arbitration; a valid claim is noted, and counted when its
slot is out of range; a valid slot frame is noted, and with the cycle check of this cycle its items are taken in order,
a malformed one ending them and counted, and else it is counted as a cycle-check failure. A frame cut off after its
slot's end and a gap make the finding invalid, counted as a format error. A slot whose end has passed is then judged. A
frame of the next slot that has begun in the guard before it (R132) and ends there is counted as a format error and
noted for that slot. A stray byte is counted and changes nothing else. The model's choices: a late frame's items are
taken first and its slot is judged after them (log entry 10); a row of at most two bytes in the guard, whatever its
framing mark, or a gap there ends the next slot's frame, which is counted at once and makes that slot's finding invalid
when it begins (log entry 36); the row's bytes are those of good framing, and the length is tested first (log entry 33);
bytes beyond the frame's length are not looked at (log entry 27); a slot frame with the own number after a lost header
changes nothing (log entry 26). -/
def Obligations.ReceivedFrames : Prop :=
  (∀ (bytes : List Byte) (framingError : Bool) (s : State) (slot : Nat), s.listens = true → s.ct.slotIndex = some slot →
     let finding := assess slot s.slots s.payload bytes framingError
     let noted := fun f : Finding => ({ s with slot := { s.slot with finding := some f }
                                               lc := { s.lc with reception := none, crc := none
                                                                 arbitration := .outside } } : State)
     let format := fun t : State => ({ t with counters := { t.counters with
       formatErrors := min 65535 (t.counters.formatErrors + 1) } } : State)
     let late := fun t : State => Host.Outcome.next (φ := Fault) (ρ := Refusal) (if s.slot.ended then t.judge else t)
     let row := exec (.frameReceived bytes framingError) s
     (finding = .error .crc → row = late { noted .invalid with counters := { s.counters with
       crcErrors := min 65535 (s.counters.crcErrors + 1) } }) ∧
     (finding = .error .format → overlong slot s.payload bytes = false → row = late (format (noted .invalid))) ∧
     (overlong slot s.payload bytes = true →
       row = late (format { noted .invalid with slot := { s.slot with finding := some .invalid, swallow := true } })) ∧
     (∀ r c, finding = .ok (.claim r c) → c.toNat = s.self.toNat → row = .next (s.enterHalted .twin)) ∧
     (∀ r c, finding = .ok (.claim r c) → c.toNat ≠ s.self.toNat → 1 ≤ r.toNat → r.toNat < s.slots →
       row = late (noted (.claim r c))) ∧
     (∀ r c, finding = .ok (.claim r c) → c.toNat ≠ s.self.toNat → r.toNat = 0 ∨ s.slots ≤ r.toNat →
       row = late (format (noted (.claim r c)))) ∧
     (finding = .ok (.slotFrame s.self) → s.slot.own = .silent → row = .next (s.enterHalted .twin)) ∧
     (finding = .ok (.slotFrame s.self) → s.slot.own = .arbitrationLost → row = .next s) ∧
     (∀ z, finding = .ok (.slotFrame z) → z ≠ s.self → byteAt bytes 1 ≠ s.ct.cycle.setWidth 8 →
       row = late { noted (.slotFrame z) with counters := { s.counters with
         cycleCheck := min 65535 (s.counters.cycleCheck + 1) } }) ∧
     (∀ z, finding = .ok (.slotFrame z) → z ≠ s.self → byteAt bytes 1 = s.ct.cycle.setWidth 8 →
       let items := parseItems s.slots (itemArea bytes).length (itemArea bytes)
       let taken := items.1.foldl (State.dispatch z) (noted (.slotFrame z))
       row = late (if items.2 then format taken else taken))) ∧
  (∀ s : State,
     let lost : State := { s with
       slot := { s.slot with finding := some .invalid }
       lc := { s.lc with reception := none, crc := none, arbitration := .outside }
       counters := { s.counters with formatErrors := min 65535 (s.counters.formatErrors + 1) } }
     (s.listens = true → s.slot.ended = true → exec .frameCutOff s = .next lost.judge ∧ exec .byteGap s = .next lost.judge) ∧
     (s.listens = true → s.slot.ended = false → exec .byteGap s = .next lost) ∧
     (s.sc.state.cyclesRun = true → s.ct.phase = .slots → s.ct.slotIndex ≠ none → s.fb.transmission = none →
       s.lc.reception = none → s.slot.own ≠ .bitError → s.slot.swallow = false →
       exec .strayTraffic s = .next { s with counters := { s.counters with
         formatErrors := min 65535 (s.counters.formatErrors + 1) } }) ∧
     (s.sc.state.cyclesRun = true → s.ct.phase = .slots → s.fb.transmission = none →
       s.ct.slotIndex = none ∨ (∃ k, s.ct.slotIndex = some k ∧ s.slot.judged = true ∧ k + 1 < s.slots) →
       let ahead : State := { s with
         slot := { s.slot with early := true }
         lc := { s.lc with reception := none, crc := none, arbitration := .outside }
         counters := { s.counters with formatErrors := min 65535 (s.counters.formatErrors + 1) } }
       (s.slot.early = false → exec .byteGap s = .next ahead ∧
         ∀ (bytes : List Byte) (framingError : Bool), bytes.length ≤ 2 →
           exec (.frameReceived bytes framingError) s = .next ahead) ∧
       (s.slot.early = true → s.lc.reception = none →
         exec .strayTraffic s = .next { s with counters := { s.counters with
           formatErrors := min 65535 (s.counters.formatErrors + 1) } })))

/-- R113, R114, R138: an item of a frame from station z: a CUE or CANCEL goes to the cue queue with z as originator and
its verdict to the staging list; an ACK goes to the outbox when it names this station; a RELEASE waits for the
slot's judgement. A verdict takes the place of one of its id and class, is appended, or is dropped and counted when
32 stand; a station that stages none discards it. -/
def Obligations.ItemsDispatched : Prop :=
  ∀ (s : State) (z : Station) (n : Serial),
    let id : CueId := { originator := z, serial := n }
    (∀ retry lead contents,
      let t := s.cq.takeCue s.ct.cycle { id := id, retry := retry, lead := lead, contents := contents }
      s.dispatch z (.cue n retry lead contents) = State.stage { s with cq := t.1, ev := s.ev.offers t.2.2 } id t.2.1) ∧
    (s.dispatch z (.cancel n) = State.stage { s with cq := (s.cq.takeCancel id).1 } id (s.cq.takeCancel id).2) ∧
    (∀ originator v, s.dispatch z (.ack originator n v) = if originator = s.self then s.takeAck z n v else s) ∧
    (∀ r, s.dispatch z (.release r) = { s with slot := { s.slot with releases := s.slot.releases ++ [r] } }) ∧
    (∀ v : Verdict,
      let same := fun e : Staged => e.id == id && e.verdict.kind == v.kind
      let with' := fun l : List Staged => ({ s with fb := { s.fb with staging := l } } : State)
      (s.sc.state.stages = false → s.stage id v = s) ∧
      (s.sc.state.stages = true → s.fb.staging.any same = true → s.stage id v = with' (s.fb.staging.map fun e =>
        if same e then { e with verdict := v, flight := if e.flight = .inFlight then .replaced else e.flight } else e)) ∧
      (s.sc.state.stages = true → s.fb.staging.any same = false → s.fb.staging.length < 32 →
        s.stage id v = with' (s.fb.staging ++ [{ id := id, verdict := v, flight := .waiting }])) ∧
      (s.sc.state.stages = true → s.fb.staging.any same = false → 32 ≤ s.fb.staging.length →
        s.stage id v = { s with counters := { s.counters with
          acksDropped := min 65535 (s.counters.acksDropped + 1) } })) ∧
    (∀ v, s.ob.find v.kind n = none ∨ (∃ e, s.ob.find v.kind n = some e ∧ ∀ d, e.send = some d → z ∉ d.expected) →
      s.takeAck z n v = { s with counters := { s.counters with strayAcks := min 65535 (s.counters.strayAcks + 1) } })

/-! ## The cue queue (Chapter 3) -/

/-- R46 to R51, R64: the verdict on a CUE item, by the first of the steps that gives one, and what it changes: NOT_MINE
and DUPLICATE nothing; a retired id answers a RETRY and is forgotten for a first send; REPLACE supersedes the
channel's records; a full queue refuses with CUE_REFUSED; else the record is inserted and the insertion count goes
up. -/
def Obligations.CueVerdicts : Prop :=
  ∀ (q : CueQueue) (now : Cycle) (item : CueItem), q.Lawful →
    let mine := q.channelOf item.contents.group item.contents.position
    let due := now + BitVec.ofNat 32 item.lead
    let held : Prop := ∃ r ∈ q.records, r.id = item.id
    let known := fun reason : RetireReason => { id := item.id, reason := reason } ∈ q.retired
    (mine = none → q.takeCue now item = (q, .notMine, [])) ∧
    (∀ channel, mine = some channel →
      let others := if item.contents.replace then q.records.filter fun r => r.channel != channel else q.records
      let gone := if item.contents.replace then q.records.filter fun r => r.channel == channel else []
      let forgotten := q.retired.filter fun e => e.id != item.id
      let retired := gone.foldl (fun l r => retire l r.id .superseded) forgotten
      let enters := q.takeCue now item =
        if 64 ≤ others.length then
          ({ q with records := others, retired := retired }, .queueFull,
            [.cueRefused item.id item.contents.group item.contents.position due item.contents.dueSlot item.retry])
        else
          ({ q with
            records := insertRecord now
              { id := item.id, group := item.contents.group, position := item.contents.position, channel := channel,
                action := item.contents.action, dueCycle := due, dueSlot := item.contents.dueSlot,
                replace := item.contents.replace, arrival := q.insertions } others
            retired := retired
            insertions := q.insertions + 1 }, .accepted, [])
      (held → q.takeCue now item = (q, .duplicate, [])) ∧
      (∀ reason, ¬held → item.retry = true → known reason →
        q.takeCue now item = (q, if reason = .cancelled ∨ reason = .cancelFirst then .cancelled else .duplicate, [])) ∧
      (¬held → item.retry = false → enters) ∧
      (¬held → item.retry = true → (∀ reason, ¬known reason) → enters))

/-- R42, R45: a record is inserted after every record of an earlier or the same due position and before every later one,
and the others keep their order. To retire an id removes its old entry, drops the oldest of 32 others, and appends
it as the newest. -/
def Obligations.QueueAndRetiredOrder : Prop :=
  (∀ (now : Cycle) (r : CueRecord) (l : List CueRecord),
     let before := fun x y : CueRecord => (x.dueCycle - now).toNat < (y.dueCycle - now).toNat ∨
       ((x.dueCycle - now).toNat = (y.dueCycle - now).toNat ∧ x.dueSlot < y.dueSlot)
     (l.Pairwise fun x y => ¬before y x) →
     ∃ earlier later, l = earlier ++ later ∧ insertRecord now r l = earlier ++ r :: later ∧
       (∀ x ∈ earlier, ¬before r x) ∧ (∀ x ∈ later, before r x)) ∧
  (∀ (list : List Retired) (id : CueId) (reason : RetireReason), list.length ≤ 32 → (list.map Retired.id).Nodup →
     ((∀ e ∈ list, e.id ≠ id) → list.length < 32 → retire list id reason = list ++ [{ id := id, reason := reason }]) ∧
     ((∀ e ∈ list, e.id ≠ id) → list.length = 32 →
       retire list id reason = list.tail ++ [{ id := id, reason := reason }]) ∧
     (∀ before e after, list = before ++ e :: after → e.id = id →
       retire list id reason = before ++ after ++ [{ id := id, reason := reason }]))

/-- R52, R53: the verdict on a CANCEL item and what it changes: a held record leaves, the others keeping their order,
its id retired CANCELLED; else the retired reason decides, and an id held nowhere is retired CANCEL_FIRST and
answered UNKNOWN, so that a retry of the cue is then answered CANCELLED and not inserted. -/
def Obligations.CancelVerdicts : Prop :=
  ∀ (q : CueQueue) (z : Station) (n : Serial), q.Lawful →
    let id : CueId := { originator := z, serial := n }
    (∀ before r after, q.records = before ++ r :: after → r.id = id →
      q.takeCancel id = ({ q with records := before ++ after, retired := retire q.retired id .cancelled }, .cancelled)) ∧
    ((∀ r ∈ q.records, r.id ≠ id) →
      (∀ e ∈ q.retired, e.id = id →
        q.takeCancel id = (q, if e.reason = .fired then .tooLate else .cancelled)) ∧
      ((∀ e ∈ q.retired, e.id ≠ id) →
        let marked : CueQueue := { q with retired := retire q.retired id .cancelFirst }
        q.takeCancel id = (marked, .unknown) ∧
        (∀ now item, item.id = id → item.retry = true →
          q.channelOf item.contents.group item.contents.position ≠ none →
          marked.takeCue now item = (marked, .cancelled, [])))) ∧
    (∀ s : State, s.cq = q → (s.dispatch z (.cancel n)).cq = (q.takeCancel id).1)

/-! ## The line faults (Chapters 7 and 8) -/

/-- R123, R128, R130, R131, R153, R154: NO_ECHO while the opening pulse is driven, the line having been read recessive,
and a stuck line enter LINE_FAULT; that neither counts the opening it cuts short as damaged is the model's choice (log
entry 39). A stuck line there is reported again with its repeat mark, its state before being LINE_FAULT, which is the
model's choice (log entry 11); the restored line leads to LISTENING with the listen window started anew, the count kept;
a falling edge starts the recessive run again. -/
def Obligations.LineFaultCommands : Prop :=
  (∀ (s : State) (o : Opening), s.sc.state.onLine = true → s.ct.phase = .opening → s.ct.role = .participant →
    s.ct.opening = some o → o.stage = .pulse →
    exec .noEcho s = .next { s.enterLineFault .noEcho with
      lc := { (s.enterLineFault .noEcho).lc with dominantRun := 0 } }) ∧
  (∀ s : State, s.sc.state.onLine = true →
    exec .stuckLine s = .next { s.enterLineFault .stuck with
      lc := { (s.enterLineFault .stuck).lc with dominantRun := 40 } }) ∧
  (∀ s : State, s.sc.state = .lineFault →
    exec .stuckLine s = .next { s with
      lc := { s.lc with dominantRun := 40, recessiveRun := 0 }
      ev := s.ev.offer (.lineFault .stuck .lineFault s.ct.cycle true) } ∧
    exec .fallingEdgeInLineFault s = .next { s with lc := { s.lc with dominantRun := 0, recessiveRun := 0 } } ∧
    exec .lineRestored s = .next { s with
      sc := { s.sc with state := .listening, faultReason := none }
      ct := { phase := .waiting, cycle := s.ct.cycle, history := s.ct.history, slotIndex := none, position := none,
              role := .observer, proposal := none, opening := none
              listenWindow := some (3 * (80 + s.slots * (10 * (s.payload + 5) + 20))) }
      fb := { s.fb with staging := [] }
      lc := { s.lc with dominantRun := 0, recessiveRun := 64 }
      ev := (s.ev.offer (.stateChanged .lineFault .listening .restored s.ct.cycle s.heldCount)).offer
        (.lineRestored s.ct.cycle s.ct.history) })

/-! ## The encodings (Chapter 11) -/

/-- R166, R167, section 11.3: a valid image, put in bytes and read back as a CONFIGURE, is itself, announces its own
subscription entries, and has the length that R166 gives; and whatever a CONFIGURE carries, an image that is taken is
valid. That the urgent mask's three bytes stand most significant first is the model's choice (log entry 34). -/
def Obligations.ConfigureRoundTrip : Prop :=
  (∀ im : Image, im.Valid → Image.ofBytes im.bytes = .ok im ∧ announced im.bytes = im.subscriptions.length ∧
     im.bytes.length = 32 + 5 * im.subscriptions.length) ∧
  (∀ (p : List Byte) (im : Image), Image.ofBytes p = .ok im → im.Valid)

/-- R86, section 11.3: a cue template in range, put in bytes and read back, is itself; and whatever the bytes, a
template that is read is in range. -/
def Obligations.TemplateRoundTrip : Prop :=
  ∀ slots : Nat, slots ≤ 32 →
    (∀ t : CueTemplate, t.Valid slots → CueTemplate.ofBytes slots t.bytes = some t ∧ t.bytes.length = 11) ∧
    (∀ (p : List Byte) (t : CueTemplate), CueTemplate.ofBytes slots p = some t → t.Valid slots)

/-- R108, R115, R127, R134, R137, section 11.2: a slot frame that one station builds of items in range is valid to its
hearers, who read its sender, its cycle check and its items as they were, with no malformed item. A claim frame is
five bytes, valid to its hearers, who read the requested slot and the claimer as they were; the same bytes with one
byte before the CRC changed are not valid. R124: a byte's ten levels read back are the byte; with the stop bit dominant
it has its framing mark; with the start bit sampled recessive there is no byte. -/
def Obligations.FrameRoundTrip : Prop :=
  (∀ (f : TxFrame) (n slot slots payload : Nat) (station : Station), f.kind = .slot n → 1 ≤ slot → slots ≤ 32 →
     payload ≤ 96 → (f.items.flatMap TxItem.bytes).length ≤ payload → (∀ i ∈ f.items, i.Valid slots) →
     let bytes := f.bytes station
     assess slot slots payload bytes false = .ok (.slotFrame station) ∧
     bytes.length = 5 + (f.items.flatMap TxItem.bytes).length ∧
     byteAt bytes 1 = f.cycleCheck ∧ itemArea bytes = f.items.flatMap TxItem.bytes ∧
     parseItems slots (itemArea bytes).length (itemArea bytes) = (f.items.map TxItem.asRead, false)) ∧
  (∀ (f : TxFrame) (r slots payload : Nat) (station : Station), f.kind = .claim r → r < 256 →
     let bytes := f.bytes station
     bytes.length = 5 ∧ byteAt bytes 2 = f.cycleCheck ∧
     assess 0 slots payload bytes false = .ok (.claim (BitVec.ofNat 8 r) (station.setWidth 8)) ∧
     ∀ (i : Nat) (b : Byte), i < 3 → b ≠ byteAt bytes i →
       assess 0 slots payload (bytes.set i b) false = .error .crc) ∧
  (∀ b : Byte, (lineBits b).length = 10 ∧ (lineBits b)[0]? = some true ∧ (lineBits b)[9]? = some false ∧
     (∀ i, i < 8 → (lineBits b)[i + 1]? = some !b.getMsbD i) ∧
     readByte (lineBits b) = some { value := b, framing := false } ∧
     readByte ((lineBits b).set 9 true) = some { value := b, framing := true } ∧
     readByte ((lineBits b).set 0 false) = none)

/-! ## What holds in every state -/

/-- R140, R142 to R156: the station state moves only as the manual's transitions allow, and only the reset rows and
CONFIGURE in CONFIG touch the configuration image; HALTED is left by a reset alone. -/
def Obligations.StationMovesFollowTransitions : Prop :=
  ∀ (c : Instr) (s t : State), s.TimerLawful → exec c s = .next t →
    let resets : Prop := c = .powerOnReset ∨ c = .pinReset ∨ ∃ rest tail a b, c = .reset rest tail a b
    let allowed := fun before after : StationState =>
      match before with
      | .config => [StationState.config, .listening].contains after
      | .listening => [StationState.listening, .learning, .lineFault, .halted].contains after
      | .learning => [StationState.learning, .quiet, .claiming, .lineFault, .halted].contains after
      | .quiet => [StationState.quiet, .claiming, .learning, .lineFault, .halted].contains after
      | .claiming => [StationState.claiming, .active, .leaving, .quiet, .learning, .lineFault, .halted].contains after
      | .active => [StationState.active, .claiming, .leaving, .quiet, .learning, .lineFault, .halted].contains after
      | .leaving => [StationState.leaving, .quiet, .learning, .lineFault, .halted].contains after
      | .lineFault => [StationState.lineFault, .listening].contains after
      | .halted => [StationState.halted].contains after
    (allowed s.sc.state t.sc.state = true ∨ (t.sc.state = .config ∧ resets)) ∧
    (t.sc.image = s.sc.image ∨ (s.sc.state = .config ∧ ∃ rest tail, c = .configure rest tail) ∨
      (t.sc.image = none ∧ resets))

/-- R42, R45, R65, R84, R106, R123, R176, R179, R181, R2, R19, R35: the laws hold in the state after reset. -/
def Obligations.LawsHoldAtReset : Prop :=
  State.reset.ev.Lawful ∧ State.reset.counters.Lawful ∧ State.reset.cq.Lawful ∧ State.reset.ob.Lawful ∧
  State.reset.StagingLawful ∧ State.reset.ChannelsLawful ∧ State.reset.TimerLawful ∧ State.reset.RosterLawful ∧
  State.reset.OwnSlotsLawful ∧ State.reset.DueLawful ∧ State.reset.LineLawful

/-- R176, R177, R179, R181: the event queue, the lost count and the counters stay in range, and ATN stays as the fill,
the watermark and the urgent mask say, over every step from every state where they are. -/
def Obligations.StepKeepsEventQueue : Prop :=
  ∀ s t : State, step s = .next t → s.ev.Lawful → s.counters.Lawful → t.ev.Lawful ∧ t.counters.Lawful

/-- R42, R43, R45: over every step the cue queue keeps at most 64 records and 32 retired entries, no id twice in either
or in both, and at most 8 subscriptions of distinct groups. -/
def Obligations.StepKeepsCueQueue : Prop :=
  ∀ s t : State, step s = .next t → s.cq.Lawful → t.cq.Lawful

/-- R84, R85: over every step the outbox keeps at most 16 entries, no two of one kind with one serial. -/
def Obligations.StepKeepsOutbox : Prop :=
  ∀ s t : State, step s = .next t → s.ob.Lawful → t.ob.Lawful

/-- R106, R113, R114: over every step the staging list keeps at most 32 verdicts, one for each id and class, none on an
own cue, and none in a state that stages none. -/
def Obligations.StepKeepsStaging : Prop :=
  ∀ s t : State, step s = .next t → s.StagingLawful → t.StagingLawful

/-- R65, R67, R78: over every step each channel keeps a lawful state, and none runs where no cycles run. -/
def Obligations.StepKeepsChannels : Prop :=
  ∀ s t : State, step s = .next t → s.ChannelsLawful → t.ChannelsLawful

/-- R2 and the table of section 1.2: over every step the cycle timer's phase, opening role and fields agree with the
station state and with one another. -/
def Obligations.StepKeepsTimer : Prop :=
  ∀ s t : State, step s = .next t → s.TimerLawful → t.TimerLawful

/-- R19, R35, R99: over every step from a state with a lawful cycle timer (R2) the roster lists exactly the peers that
hold a slot, in ascending order, and every unanswered member of an outbox entry is PRESENT. -/
def Obligations.StepKeepsRoster : Prop :=
  ∀ s t : State, step s = .next t → s.TimerLawful → s.RosterLawful → t.RosterLawful

/-- R21: over every step this station's view shows it as holder and claimer of at most W slots. -/
def Obligations.StepKeepsOwnSlots : Prop :=
  ∀ s t : State, step s = .next t → s.OwnSlotsLawful → t.OwnSlotsLawful

/-- R42: over every step from a state with a lawful cycle timer (R2) every held record is due later than the most recent
slot beginning and at most 1023 cycles ahead, and the records stand in order of due position. -/
def Obligations.StepKeepsDuePositions : Prop :=
  ∀ s t : State, step s = .next t → s.TimerLawful → s.DueLawful → t.DueLawful

/-- R106, R108, R123, R124, R126, R132: over every step the two runs stay in range, what LC sends agrees with the frame
in transmission and with the opening, a station stands inside an arbitration field only while it sends, the items of a
slot frame take at most P bytes, an own frame stands only in a slot in progress and with its CRC begun and no reception
record, a reception record only where cycles run, and a station off the line sends and reads nothing. -/
def Obligations.StepKeepsLine : Prop :=
  ∀ s t : State, step s = .next t → s.LineLawful → t.LineLawful
end

