-- ==== Sys2Proof/Laws/Line.lean ====
section
/-! SUPPORT. What the line controller's operations leave and set: one lemma for each operation over its record, and what one level taken from the line changes. -/

namespace Sys2Proof.Machine

/-! ## The operations of a row -/

@[simp] theorem LineController.release_frame (l : LineController) :
    l.release.dominantRun = l.dominantRun ∧ l.release.recessiveRun = l.recessiveRun ∧ l.release.reading = l.reading ∧
    l.release.sending = .nothing ∧ l.release.drive = .released ∧ l.release.arbitration = .outside ∧
    l.release.reception = none ∧ l.release.crc = none ∧ l.release.overheard = none :=
  ⟨rfl, rfl, rfl, rfl, rfl, rfl, rfl, rfl, rfl⟩

@[simp] theorem LineController.pulse_frame (l : LineController) (position : Nat) :
    (l.pulse position).sending = .opening ∧ (l.pulse position).reception = none ∧ (l.pulse position).crc = none ∧
    (l.pulse position).dominantRun = max position l.dominantRun ∧ (l.pulse position).recessiveRun = 0 ∧
    (l.pulse position).reading = none ∧ (l.pulse position).arbitration = .outside ∧
    (l.pulse position).overheard = none :=
  ⟨rfl, rfl, rfl, rfl, rfl, rfl, rfl, rfl⟩

/-- The end of a pulse touches the drive and the dominant run alone; the run is then 12 bit times or more, no shorter than
it was, and in its range (R123). -/
theorem LineController.pulseEnd_frame (l : LineController) (passed : Nat) (h : l.dominantRun ≤ 40) :
    l.pulseEnd passed = { l with drive := .released, dominantRun := (l.pulseEnd passed).dominantRun } ∧
    12 ≤ (l.pulseEnd passed).dominantRun ∧ l.dominantRun ≤ (l.pulseEnd passed).dominantRun ∧
    (l.pulseEnd passed).dominantRun ≤ 40 := by
  refine ⟨rfl, ?_, ?_, ?_⟩ <;> simp only [pulseEnd] <;> omega

/-- The end of a field touches the dominant run alone (R124, R128). -/
theorem LineController.fieldEnd_eq (l : LineController) (damaged : Bool) :
    l.fieldEnd damaged = { l with dominantRun := if damaged then l.dominantRun else 0 } := by
  cases damaged <;> rfl

@[simp] theorem LineController.send_frame (l : LineController) (what : Sending) :
    (l.send what).sending = what ∧ (l.send what).reception = none ∧ (l.send what).crc = some 0xFFFF ∧
    (l.send what).dominantRun = l.dominantRun ∧ (l.send what).recessiveRun = l.recessiveRun ∧
    (l.send what).reading = l.reading ∧ (l.send what).arbitration = .outside ∧
    (l.send what).overheard = l.reception :=
  ⟨rfl, rfl, rfl, rfl, rfl, rfl, rfl, rfl⟩

@[simp] theorem LineController.receive_frame (l : LineController) (slot : Nat) (bs : List Byte) :
    (l.receive slot bs).sending = l.sending ∧ (l.receive slot bs).drive = l.drive ∧
    (l.receive slot bs).arbitration = l.arbitration ∧ (l.receive slot bs).heldMismatch = l.heldMismatch ∧
    (l.receive slot bs).dominantRun = l.dominantRun ∧ (l.receive slot bs).recessiveRun = l.recessiveRun ∧
    (l.receive slot bs).reading = l.reading ∧ (l.receive slot bs).overheard = l.overheard :=
  ⟨rfl, rfl, rfl, rfl, rfl, rfl, rfl, rfl⟩

@[simp] theorem LineController.hearOn_frame (l : LineController) (slot : Nat) (o : Option Reception) (bs : List Byte) :
    (l.hearOn slot o bs).sending = l.sending ∧ (l.hearOn slot o bs).drive = l.drive ∧
    (l.hearOn slot o bs).arbitration = .lost ∧ (l.hearOn slot o bs).heldMismatch = l.heldMismatch ∧
    (l.hearOn slot o bs).dominantRun = l.dominantRun ∧ (l.hearOn slot o bs).recessiveRun = l.recessiveRun ∧
    (l.hearOn slot o bs).reading = l.reading ∧ (l.hearOn slot o bs).overheard = l.overheard :=
  ⟨rfl, rfl, rfl, rfl, rfl, rfl, rfl, rfl⟩

/-- R132: the record after an arbitration loss: what LC overheard of the frame, then the bytes told. -/
theorem LineController.hearOn_reception (l : LineController) (slot : Nat) (o : Option Reception) (bs : List Byte) :
    ∃ r, (l.hearOn slot o bs).reception = some r ∧ (l.hearOn slot o bs).crc = some r.crc ∧ r.slot = slot ∧
      r.bytes = (o.map Reception.bytes).getD [] ++ bs ∧ r.expected = expectedBytes slot r.bytes ∧
      r.framing = o.any Reception.framing :=
  ⟨_, rfl, rfl, rfl, rfl, rfl, rfl⟩

@[simp] theorem LineController.endReception_frame (l : LineController) :
    l.endReception.sending = l.sending ∧ l.endReception.drive = l.drive ∧
    l.endReception.arbitration = .outside ∧ l.endReception.heldMismatch = l.heldMismatch ∧
    l.endReception.dominantRun = l.dominantRun ∧ l.endReception.recessiveRun = l.recessiveRun ∧
    l.endReception.reading = l.reading ∧ l.endReception.reception = none ∧ l.endReception.crc = none ∧
    l.endReception.overheard = l.overheard :=
  ⟨rfl, rfl, rfl, rfl, rfl, rfl, rfl, rfl, rfl, rfl⟩

@[simp] theorem LineController.turn_frame (l : LineController) (slot : Nat) :
    (l.turn slot).sending = .nothing ∧ (l.turn slot).drive = .released ∧ (l.turn slot).arbitration = .outside ∧
    (l.turn slot).heldMismatch = false ∧ (l.turn slot).dominantRun = l.dominantRun ∧
    (l.turn slot).recessiveRun = l.recessiveRun ∧ (l.turn slot).reading = l.reading ∧ (l.turn slot).overheard = none :=
  ⟨rfl, rfl, rfl, rfl, rfl, rfl, rfl, rfl⟩

/-- R132: at a slot's beginning only a reception record opened for that slot stands, with its accumulator. -/
theorem LineController.turn_reception (l : LineController) (slot : Nat) :
    ((l.turn slot).reception = none ∧ (l.turn slot).crc = none ∧ ∀ r, l.reception = some r → r.slot ≠ slot) ∨
    (∃ r, l.reception = some r ∧ r.slot = slot ∧ (l.turn slot).reception = some r ∧ (l.turn slot).crc = l.crc) := by
  cases h : l.reception with
  | none => exact .inl ⟨by simp [turn, h], by simp [turn, h], nofun⟩
  | some r =>
    by_cases hr : r.slot = slot
    · exact .inr ⟨r, rfl, hr, by simp [turn, h, hr], by simp [turn, h, hr]⟩
    · refine .inl ⟨by simp [turn, h, hr], by simp [turn, h, hr], ?_⟩
      rintro _ ⟨⟩
      exact hr

/-! ## One bit -/

@[simp] theorem LineController.sendBit_frame (l : LineController) (b : Option SentBit) (inField read : Bool) :
    (l.sendBit b inField read).sending = l.sending ∧ (l.sendBit b inField read).drive = l.drive ∧
    (l.sendBit b inField read).arbitration = l.arbitration ∧ (l.sendBit b inField read).reception = l.reception ∧
    (l.sendBit b inField read).dominantRun = l.dominantRun ∧ (l.sendBit b inField read).recessiveRun = l.recessiveRun ∧
    (l.sendBit b inField read).reading = l.reading ∧ (l.sendBit b inField read).overheard = l.overheard := by
  cases b <;> exact ⟨rfl, rfl, rfl, rfl, rfl, rfl, rfl, rfl⟩

/-- R125: the held mismatch after a bit is read back. -/
theorem LineController.sendBit_heldMismatch (l : LineController) (b : SentBit) (inField read : Bool) :
    (l.sendBit (some b) inField read).heldMismatch = (l.heldMismatch || (inField && b.data && b.dominant && !read)) := by
  rcases b with ⟨d, da, c⟩
  cases d <;> cases inField <;> cases da <;> cases read <;> rfl

@[simp] theorem LineController.startBit_frame (l : LineController) (b : Option SentBit) (inField : Bool) :
    (l.startBit b inField).sending = l.sending ∧ (l.startBit b inField).heldMismatch = l.heldMismatch ∧
    (l.startBit b inField).crc = l.crc ∧ (l.startBit b inField).reception = l.reception ∧
    (l.startBit b inField).dominantRun = l.dominantRun ∧ (l.startBit b inField).recessiveRun = l.recessiveRun ∧
    (l.startBit b inField).reading = l.reading ∧ (l.startBit b inField).overheard = l.overheard :=
  ⟨rfl, rfl, rfl, rfl, rfl, rfl, rfl, rfl⟩

/-- R123: a station stands inside an arbitration field only where one is on the line and the station sends in it. -/
theorem LineController.startBit_inside {l : LineController} {b : Option SentBit} {inField : Bool}
    (h : (l.startBit b inField).arbitration = .inside) : inField = true ∧ b.isSome = true ∧ l.arbitration ≠ .lost := by
  cases inField <;> cases b <;> cases ha : l.arbitration <;> simp_all [startBit]

/-- R123: one level timed: both runs, and nothing else. -/
theorem LineController.sample_eq (l : LineController) (dominant : Bool) :
    l.sample dominant = { l with
      dominantRun := if dominant then min 40 (l.dominantRun + 1) else 0
      recessiveRun := if dominant then 0 else min 64 (l.recessiveRun + 1) } := by
  cases dominant <;> rfl

/-! ## Reading -/

/-- One level sampled changes what has been read of the byte in progress alone. -/
theorem LineController.readLevel_fst (l : LineController) (read : Bool) :
    (l.readLevel read).1 = { l with reading := (l.readLevel read).1.reading } := by
  unfold readLevel
  split <;> split <;> rfl

/-- R124: at most nine levels of a byte are held. -/
theorem LineController.readLevel_length (l : LineController) (read : Bool) (ls : List Bool)
    (hl : (l.readLevel read).1.reading = some ls) :
    1 ≤ ls.length ∧ ls.length ≤ 9 := by
  unfold readLevel at hl
  split at hl
  · split at hl
    · cases hl; simp
    · simp_all
  · split at hl
    · cases hl; simp; omega
    · cases hl

@[simp] theorem LineController.takeByte_frame (l : LineController) (payload : Nat) (b : ByteRead) :
    (l.takeByte payload b).sending = l.sending ∧ (l.takeByte payload b).drive = l.drive ∧
    (l.takeByte payload b).arbitration = l.arbitration ∧ (l.takeByte payload b).heldMismatch = l.heldMismatch ∧
    (l.takeByte payload b).dominantRun = l.dominantRun ∧ (l.takeByte payload b).recessiveRun = l.recessiveRun ∧
    (l.takeByte payload b).reading = l.reading ∧ (l.takeByte payload b).overheard = l.overheard := by
  unfold takeByte
  split <;> exact ⟨rfl, rfl, rfl, rfl, rfl, rfl, rfl, rfl⟩

/-- R133: a delivered byte neither opens nor closes a reception record, and with one the accumulator stands. -/
theorem LineController.takeByte_reception (l : LineController) (payload : Nat) (b : ByteRead) :
    (l.reception = none → l.takeByte payload b = l) ∧
    (∀ r, l.reception = some r → (l.takeByte payload b).reception = some (r.take payload b) ∧
      (l.takeByte payload b).crc = some (r.take payload b).crc) := by
  refine ⟨fun h => by simp [takeByte, h], fun r h => ?_⟩
  simp [takeByte, h, record]

/-- R133: a byte taken into an open record joins its bytes, or with bad framing sets its mark; a record whose frame has
ended stays as it is. -/
theorem Reception.take_cases (r : Reception) (payload : Nat) (b : ByteRead) :
    ((r.framing = true ∨ overlong r.slot payload r.bytes = true ∨ r.expected = some r.bytes.length) ∧
      r.take payload b = r) ∨
    ((r.framing = false ∧ overlong r.slot payload r.bytes = false ∧ r.expected ≠ some r.bytes.length) ∧
      r.take payload b = if b.framing then { r with framing := true } else .ofBytes r.slot (r.bytes ++ [b.value])) := by
  unfold take
  split
  · next h => exact .inl ⟨by simpa [or_assoc] using h, rfl⟩
  · next h => exact .inr ⟨by simpa [and_assoc] using h, rfl⟩

/-- R124, R132, R133: reading a level for a reception record changes what has been read of the byte in progress, the
record and the accumulator alone. -/
@[simp] theorem State.assemble_frame (s : State) (read : Bool) :
    (s.assemble read).sending = s.lc.sending ∧ (s.assemble read).drive = s.lc.drive ∧
    (s.assemble read).arbitration = s.lc.arbitration ∧ (s.assemble read).heldMismatch = s.lc.heldMismatch ∧
    (s.assemble read).dominantRun = s.lc.dominantRun ∧ (s.assemble read).recessiveRun = s.lc.recessiveRun ∧
    (s.assemble read).reading = (s.lc.readLevel read).1.reading ∧ (s.assemble read).overheard = s.lc.overheard := by
  have h := s.lc.readLevel_fst read
  unfold State.assemble
  dsimp only
  split
  · simp only [LineController.takeByte_frame]
    rw [h]; simp
  · split
    · split
      · simp only [LineController.receive_frame]
        rw [h]; simp
      · rw [h]; simp
    · rw [h]; simp

/-- What one level read does: what `assemble` does, and in the slot of an own frame what `overhear` adds (R132). -/
theorem State.hear_eq (s : State) (read : Bool) :
    s.hear read = { s.assemble read with overheard := (s.hear read).overheard } ∧
    ((∀ f slot, s.fb.transmission = some f → s.ct.slotIndex ≠ some slot) →
      (s.hear read).overheard = s.lc.overheard) ∧
    (∀ f slot, s.fb.transmission = some f → s.ct.slotIndex = some slot →
      (s.hear read).overheard =
        (s.lc.overhear slot s.payload (s.lc.byteStart read) (s.lc.readLevel read).2).overheard) := by
  refine ⟨?_, fun hn => ?_, fun f slot hf hk => ?_⟩
  · unfold State.hear
    split <;> rfl
  · unfold State.hear
    split
    · next hf hk => exact absurd hk (hn _ _ hf)
    · simp
  · simp [State.hear, hf, hk, LineController.overhear]

@[simp] theorem State.hear_frame (s : State) (read : Bool) :
    (s.hear read).sending = s.lc.sending ∧ (s.hear read).drive = s.lc.drive ∧
    (s.hear read).arbitration = s.lc.arbitration ∧ (s.hear read).heldMismatch = s.lc.heldMismatch ∧
    (s.hear read).dominantRun = s.lc.dominantRun ∧ (s.hear read).recessiveRun = s.lc.recessiveRun ∧
    (s.hear read).reading = (s.lc.readLevel read).1.reading ∧ (s.hear read).reception = (s.assemble read).reception ∧
    (s.hear read).crc = (s.assemble read).crc := by
  rw [(s.hear_eq read).1]
  simp

/-! ## The bit time -/

/-- What one bit time of LC leaves and sets in every field but the mismatch, the accumulator and what the pin drives. -/
theorem State.lineBit_onLine {s : State} (h : s.sc.state.onLine = true) (read : Bool) :
    (s.lineBit read).sending = s.lc.sending ∧
    (s.lineBit read).dominantRun = (if read then min 40 (s.lc.dominantRun + 1) else 0) ∧
    (s.lineBit read).recessiveRun = (if read then 0 else min 64 (s.lc.recessiveRun + 1)) ∧
    (s.lineBit read).reading = (s.lc.readLevel read).1.reading ∧
    (s.lineBit read).reception = (s.hear read).reception ∧ (s.lineBit read).overheard = (s.hear read).overheard := by
  unfold State.lineBit
  rw [if_pos h]
  split <;> simp [LineController.sample_eq]

/-- A bit time in LINE_FAULT times the runs. -/
theorem State.lineBit_lineFault {s : State} (h : s.sc.state = .lineFault) (read : Bool) :
    s.lineBit read = s.lc.sample read := by
  simp [State.lineBit, h, StationState.onLine]

/-- No bit time passes for LC in CONFIG and HALTED. -/
theorem State.lineBit_off {s : State} (h : s.sc.state = .config ∨ s.sc.state = .halted) (read : Bool) :
    s.lineBit read = s.lc := by
  rcases h with h | h <;> simp [State.lineBit, h, StationState.onLine]

@[simp] theorem State.tick_ct (s : State) :
    s.tick.ct.phase = s.ct.phase ∧ s.tick.ct.role = s.ct.role ∧ s.tick.ct.slotIndex = s.ct.slotIndex ∧
    s.tick.ct.proposal = s.ct.proposal ∧ s.tick.ct.opening = s.ct.opening ∧ s.tick.ct.cycle = s.ct.cycle ∧
    s.tick.ct.history = s.ct.history ∧ s.tick.lc = s.lineBit (Config.lineDominant s.ticks) :=
  ⟨rfl, rfl, rfl, rfl, rfl, rfl, rfl, rfl⟩

end Sys2Proof.Machine
end

