-- ==== Sys2Proof/Laws/State.lean ====
section
/-! SUPPORT. What each operation on the state leaves alone: for every operation one lemma over the fields of State that it does not change, in the order in which the operations build on one another, so that no later proof unfolds a record update. -/

namespace Sys2Proof.Machine

/-- What every step of a fold keeps, the fold keeps. -/
theorem foldl_keeps {ι β : Type} (g : State → ι → State) (f : State → β) (h : ∀ s i, f (g s i) = f s) (l : List ι)
    (s : State) : f (l.foldl g s) = f s := by
  induction l generalizing s with
  | nil => rfl
  | cons i is ih => rw [List.foldl_cons, ih, h]

@[simp] theorem State.offer_frame (s : State) (r : EventRecord) :
    (s.offer r).sc = s.sc ∧ (s.offer r).hold = s.hold ∧ (s.offer r).ct = s.ct ∧ (s.offer r).st = s.st ∧
    (s.offer r).slot = s.slot ∧ (s.offer r).cq = s.cq ∧ (s.offer r).cg = s.cg ∧ (s.offer r).ob = s.ob ∧
    (s.offer r).fb = s.fb ∧ (s.offer r).lc = s.lc ∧ (s.offer r).hp = s.hp ∧ (s.offer r).counters = s.counters ∧
    (s.offer r).trig0 = s.trig0 ∧ (s.offer r).trig1 = s.trig1 ∧ (s.offer r).ticks = s.ticks ∧
    (s.offer r).choices = s.choices ∧ (s.offer r).pending = s.pending := by
  simp [State.offer]

@[simp] theorem State.offers_frame (s : State) (rs : List EventRecord) :
    (s.offers rs).sc = s.sc ∧ (s.offers rs).hold = s.hold ∧ (s.offers rs).ct = s.ct ∧ (s.offers rs).st = s.st ∧
    (s.offers rs).slot = s.slot ∧ (s.offers rs).cq = s.cq ∧ (s.offers rs).cg = s.cg ∧ (s.offers rs).ob = s.ob ∧
    (s.offers rs).fb = s.fb ∧ (s.offers rs).lc = s.lc ∧ (s.offers rs).hp = s.hp ∧
    (s.offers rs).counters = s.counters ∧ (s.offers rs).trig0 = s.trig0 ∧ (s.offers rs).trig1 = s.trig1 ∧
    (s.offers rs).ticks = s.ticks ∧ (s.offers rs).choices = s.choices ∧ (s.offers rs).pending = s.pending := by
  simp [State.offers]

@[simp] theorem State.offersUnordered_frame (s : State) (xs ys : List EventRecord) :
    (s.offersUnordered xs ys).sc = s.sc ∧ (s.offersUnordered xs ys).hold = s.hold ∧
    (s.offersUnordered xs ys).ct = s.ct ∧ (s.offersUnordered xs ys).st = s.st ∧
    (s.offersUnordered xs ys).slot = s.slot ∧ (s.offersUnordered xs ys).cq = s.cq ∧
    (s.offersUnordered xs ys).cg = s.cg ∧ (s.offersUnordered xs ys).ob = s.ob ∧ (s.offersUnordered xs ys).fb = s.fb ∧
    (s.offersUnordered xs ys).lc = s.lc ∧ (s.offersUnordered xs ys).hp = s.hp ∧
    (s.offersUnordered xs ys).counters = s.counters ∧ (s.offersUnordered xs ys).trig0 = s.trig0 ∧
    (s.offersUnordered xs ys).trig1 = s.trig1 ∧ (s.offersUnordered xs ys).ticks = s.ticks ∧
    (s.offersUnordered xs ys).pending = s.pending := by
  unfold State.offersUnordered; split <;> simp

@[simp] theorem State.countFormat_frame (s : State) :
    (s.countFormat).sc = s.sc ∧ (s.countFormat).hold = s.hold ∧ (s.countFormat).ct = s.ct ∧
    (s.countFormat).st = s.st ∧ (s.countFormat).slot = s.slot ∧ (s.countFormat).cq = s.cq ∧
    (s.countFormat).cg = s.cg ∧ (s.countFormat).ob = s.ob ∧ (s.countFormat).fb = s.fb ∧ (s.countFormat).lc = s.lc ∧
    (s.countFormat).hp = s.hp ∧ (s.countFormat).ev = s.ev ∧ (s.countFormat).trig0 = s.trig0 ∧
    (s.countFormat).trig1 = s.trig1 ∧ (s.countFormat).ticks = s.ticks ∧ (s.countFormat).choices = s.choices ∧
    (s.countFormat).pending = s.pending := by
  simp [State.countFormat]

@[simp] theorem State.countCrc_frame (s : State) :
    (s.countCrc).sc = s.sc ∧ (s.countCrc).hold = s.hold ∧ (s.countCrc).ct = s.ct ∧ (s.countCrc).st = s.st ∧
    (s.countCrc).slot = s.slot ∧ (s.countCrc).cq = s.cq ∧ (s.countCrc).cg = s.cg ∧ (s.countCrc).ob = s.ob ∧
    (s.countCrc).fb = s.fb ∧ (s.countCrc).lc = s.lc ∧ (s.countCrc).hp = s.hp ∧ (s.countCrc).ev = s.ev ∧
    (s.countCrc).trig0 = s.trig0 ∧ (s.countCrc).trig1 = s.trig1 ∧ (s.countCrc).ticks = s.ticks ∧
    (s.countCrc).choices = s.choices ∧ (s.countCrc).pending = s.pending := by
  simp [State.countCrc]

@[simp] theorem State.countCycleCheck_frame (s : State) :
    (s.countCycleCheck).sc = s.sc ∧ (s.countCycleCheck).hold = s.hold ∧ (s.countCycleCheck).ct = s.ct ∧
    (s.countCycleCheck).st = s.st ∧ (s.countCycleCheck).slot = s.slot ∧ (s.countCycleCheck).cq = s.cq ∧
    (s.countCycleCheck).cg = s.cg ∧ (s.countCycleCheck).ob = s.ob ∧ (s.countCycleCheck).fb = s.fb ∧
    (s.countCycleCheck).lc = s.lc ∧ (s.countCycleCheck).hp = s.hp ∧ (s.countCycleCheck).ev = s.ev ∧
    (s.countCycleCheck).trig0 = s.trig0 ∧ (s.countCycleCheck).trig1 = s.trig1 ∧ (s.countCycleCheck).ticks = s.ticks ∧
    (s.countCycleCheck).choices = s.choices ∧ (s.countCycleCheck).pending = s.pending := by
  simp [State.countCycleCheck]

@[simp] theorem State.countAckDropped_frame (s : State) :
    (s.countAckDropped).sc = s.sc ∧ (s.countAckDropped).hold = s.hold ∧ (s.countAckDropped).ct = s.ct ∧
    (s.countAckDropped).st = s.st ∧ (s.countAckDropped).slot = s.slot ∧ (s.countAckDropped).cq = s.cq ∧
    (s.countAckDropped).cg = s.cg ∧ (s.countAckDropped).ob = s.ob ∧ (s.countAckDropped).fb = s.fb ∧
    (s.countAckDropped).lc = s.lc ∧ (s.countAckDropped).hp = s.hp ∧ (s.countAckDropped).ev = s.ev ∧
    (s.countAckDropped).trig0 = s.trig0 ∧ (s.countAckDropped).trig1 = s.trig1 ∧ (s.countAckDropped).ticks = s.ticks ∧
    (s.countAckDropped).choices = s.choices ∧ (s.countAckDropped).pending = s.pending := by
  simp [State.countAckDropped]

@[simp] theorem State.countStrayAck_frame (s : State) :
    (s.countStrayAck).sc = s.sc ∧ (s.countStrayAck).hold = s.hold ∧ (s.countStrayAck).ct = s.ct ∧
    (s.countStrayAck).st = s.st ∧ (s.countStrayAck).slot = s.slot ∧ (s.countStrayAck).cq = s.cq ∧
    (s.countStrayAck).cg = s.cg ∧ (s.countStrayAck).ob = s.ob ∧ (s.countStrayAck).fb = s.fb ∧
    (s.countStrayAck).lc = s.lc ∧ (s.countStrayAck).hp = s.hp ∧ (s.countStrayAck).ev = s.ev ∧
    (s.countStrayAck).trig0 = s.trig0 ∧ (s.countStrayAck).trig1 = s.trig1 ∧ (s.countStrayAck).ticks = s.ticks ∧
    (s.countStrayAck).choices = s.choices ∧ (s.countStrayAck).pending = s.pending := by
  simp [State.countStrayAck]

@[simp] theorem State.countDamagedOpening_frame (s : State) :
    (s.countDamagedOpening).sc = s.sc ∧ (s.countDamagedOpening).hold = s.hold ∧ (s.countDamagedOpening).ct = s.ct ∧
    (s.countDamagedOpening).st = s.st ∧ (s.countDamagedOpening).slot = s.slot ∧ (s.countDamagedOpening).cq = s.cq ∧
    (s.countDamagedOpening).cg = s.cg ∧ (s.countDamagedOpening).ob = s.ob ∧ (s.countDamagedOpening).fb = s.fb ∧
    (s.countDamagedOpening).lc = s.lc ∧ (s.countDamagedOpening).hp = s.hp ∧ (s.countDamagedOpening).ev = s.ev ∧
    (s.countDamagedOpening).trig0 = s.trig0 ∧ (s.countDamagedOpening).trig1 = s.trig1 ∧
    (s.countDamagedOpening).ticks = s.ticks ∧ (s.countDamagedOpening).choices = s.choices ∧
    (s.countDamagedOpening).pending = s.pending := by
  simp [State.countDamagedOpening]

@[simp] theorem State.countOwnFailure_frame (s : State) :
    (s.countOwnFailure).sc = s.sc ∧ (s.countOwnFailure).hold = s.hold ∧ (s.countOwnFailure).ct = s.ct ∧
    (s.countOwnFailure).st = s.st ∧ (s.countOwnFailure).slot = s.slot ∧ (s.countOwnFailure).cq = s.cq ∧
    (s.countOwnFailure).cg = s.cg ∧ (s.countOwnFailure).ob = s.ob ∧ (s.countOwnFailure).fb = s.fb ∧
    (s.countOwnFailure).lc = s.lc ∧ (s.countOwnFailure).hp = s.hp ∧ (s.countOwnFailure).ev = s.ev ∧
    (s.countOwnFailure).trig0 = s.trig0 ∧ (s.countOwnFailure).trig1 = s.trig1 ∧ (s.countOwnFailure).ticks = s.ticks ∧
    (s.countOwnFailure).choices = s.choices ∧ (s.countOwnFailure).pending = s.pending := by
  simp [State.countOwnFailure]

@[simp] theorem State.countClaimLoss_frame (s : State) :
    (s.countClaimLoss).sc = s.sc ∧ (s.countClaimLoss).hold = s.hold ∧ (s.countClaimLoss).ct = s.ct ∧
    (s.countClaimLoss).st = s.st ∧ (s.countClaimLoss).slot = s.slot ∧ (s.countClaimLoss).cq = s.cq ∧
    (s.countClaimLoss).cg = s.cg ∧ (s.countClaimLoss).ob = s.ob ∧ (s.countClaimLoss).fb = s.fb ∧
    (s.countClaimLoss).lc = s.lc ∧ (s.countClaimLoss).hp = s.hp ∧ (s.countClaimLoss).ev = s.ev ∧
    (s.countClaimLoss).trig0 = s.trig0 ∧ (s.countClaimLoss).trig1 = s.trig1 ∧ (s.countClaimLoss).ticks = s.ticks ∧
    (s.countClaimLoss).choices = s.choices ∧ (s.countClaimLoss).pending = s.pending := by
  simp [State.countClaimLoss]

@[simp] theorem State.sweepOutbox_frame (s : State) (f : OutEntry → OutEntry × Option Outcome) :
    (s.sweepOutbox f).sc = s.sc ∧ (s.sweepOutbox f).hold = s.hold ∧ (s.sweepOutbox f).ct = s.ct ∧
    (s.sweepOutbox f).st = s.st ∧ (s.sweepOutbox f).slot = s.slot ∧ (s.sweepOutbox f).cq = s.cq ∧
    (s.sweepOutbox f).cg = s.cg ∧ (s.sweepOutbox f).fb = s.fb ∧ (s.sweepOutbox f).lc = s.lc ∧
    (s.sweepOutbox f).hp = s.hp ∧ (s.sweepOutbox f).counters = s.counters ∧ (s.sweepOutbox f).trig0 = s.trig0 ∧
    (s.sweepOutbox f).trig1 = s.trig1 ∧ (s.sweepOutbox f).ticks = s.ticks ∧ (s.sweepOutbox f).choices = s.choices ∧
    (s.sweepOutbox f).pending = s.pending := by
  simp [State.sweepOutbox]

@[simp] theorem State.takeAck_frame (s : State) (z : Station) (n : Serial) (v : Verdict) :
    (s.takeAck z n v).sc = s.sc ∧ (s.takeAck z n v).hold = s.hold ∧ (s.takeAck z n v).ct = s.ct ∧
    (s.takeAck z n v).st = s.st ∧ (s.takeAck z n v).slot = s.slot ∧ (s.takeAck z n v).cq = s.cq ∧
    (s.takeAck z n v).cg = s.cg ∧ (s.takeAck z n v).fb = s.fb ∧ (s.takeAck z n v).lc = s.lc ∧
    (s.takeAck z n v).hp = s.hp ∧ (s.takeAck z n v).trig0 = s.trig0 ∧ (s.takeAck z n v).trig1 = s.trig1 ∧
    (s.takeAck z n v).ticks = s.ticks ∧ (s.takeAck z n v).choices = s.choices ∧ (s.takeAck z n v).pending = s.pending := by
  unfold State.takeAck; constructorm* _ ∧ _ <;> repeat' (first | simp | split)

@[simp] theorem State.cancelSelf_frame (s : State) (n : Serial) (v : Verdict) :
    (s.cancelSelf n v).sc = s.sc ∧ (s.cancelSelf n v).hold = s.hold ∧ (s.cancelSelf n v).ct = s.ct ∧
    (s.cancelSelf n v).st = s.st ∧ (s.cancelSelf n v).slot = s.slot ∧ (s.cancelSelf n v).cq = s.cq ∧
    (s.cancelSelf n v).cg = s.cg ∧ (s.cancelSelf n v).fb = s.fb ∧ (s.cancelSelf n v).lc = s.lc ∧
    (s.cancelSelf n v).hp = s.hp ∧ (s.cancelSelf n v).counters = s.counters ∧ (s.cancelSelf n v).trig0 = s.trig0 ∧
    (s.cancelSelf n v).trig1 = s.trig1 ∧ (s.cancelSelf n v).ticks = s.ticks ∧ (s.cancelSelf n v).choices = s.choices ∧
    (s.cancelSelf n v).pending = s.pending := by
  simp [State.cancelSelf]

@[simp] theorem State.ownVerdict_frame (s : State) (n : Serial) (v : Verdict) :
    (s.ownVerdict n v).sc = s.sc ∧ (s.ownVerdict n v).hold = s.hold ∧ (s.ownVerdict n v).ct = s.ct ∧
    (s.ownVerdict n v).st = s.st ∧ (s.ownVerdict n v).slot = s.slot ∧ (s.ownVerdict n v).cq = s.cq ∧
    (s.ownVerdict n v).cg = s.cg ∧ (s.ownVerdict n v).fb = s.fb ∧ (s.ownVerdict n v).lc = s.lc ∧
    (s.ownVerdict n v).hp = s.hp ∧ (s.ownVerdict n v).counters = s.counters ∧ (s.ownVerdict n v).trig0 = s.trig0 ∧
    (s.ownVerdict n v).trig1 = s.trig1 ∧ (s.ownVerdict n v).ticks = s.ticks ∧ (s.ownVerdict n v).choices = s.choices ∧
    (s.ownVerdict n v).pending = s.pending := by
  unfold State.ownVerdict; split <;> simp

@[simp] theorem State.offerOwn_frame (s : State) (item : CueItem) :
    (s.offerOwn item).sc = s.sc ∧ (s.offerOwn item).hold = s.hold ∧ (s.offerOwn item).ct = s.ct ∧
    (s.offerOwn item).st = s.st ∧ (s.offerOwn item).slot = s.slot ∧ (s.offerOwn item).cg = s.cg ∧
    (s.offerOwn item).fb = s.fb ∧ (s.offerOwn item).lc = s.lc ∧ (s.offerOwn item).hp = s.hp ∧
    (s.offerOwn item).counters = s.counters ∧ (s.offerOwn item).trig0 = s.trig0 ∧ (s.offerOwn item).trig1 = s.trig1 ∧
    (s.offerOwn item).ticks = s.ticks ∧ (s.offerOwn item).choices = s.choices ∧ (s.offerOwn item).pending = s.pending := by
  simp [State.offerOwn]

@[simp] theorem State.cueFirstSend_frame (s : State) (n : Serial) (t : CueTemplate) (pending : Bool) :
    (s.cueFirstSend n t pending).sc = s.sc ∧ (s.cueFirstSend n t pending).hold = s.hold ∧
    (s.cueFirstSend n t pending).ct = s.ct ∧ (s.cueFirstSend n t pending).st = s.st ∧
    (s.cueFirstSend n t pending).slot = s.slot ∧ (s.cueFirstSend n t pending).cg = s.cg ∧
    (s.cueFirstSend n t pending).fb = s.fb ∧ (s.cueFirstSend n t pending).lc = s.lc ∧
    (s.cueFirstSend n t pending).hp = s.hp ∧ (s.cueFirstSend n t pending).counters = s.counters ∧
    (s.cueFirstSend n t pending).trig0 = s.trig0 ∧ (s.cueFirstSend n t pending).trig1 = s.trig1 ∧
    (s.cueFirstSend n t pending).ticks = s.ticks ∧ (s.cueFirstSend n t pending).choices = s.choices ∧
    (s.cueFirstSend n t pending).pending = s.pending := by
  unfold State.cueFirstSend; constructorm* _ ∧ _ <;> repeat' (first | (simp; done) | split)

@[simp] theorem State.cueRetrySent_frame (s : State) (n : Serial) (t : CueTemplate) (lead : Nat) :
    (s.cueRetrySent n t lead).sc = s.sc ∧ (s.cueRetrySent n t lead).hold = s.hold ∧
    (s.cueRetrySent n t lead).ct = s.ct ∧ (s.cueRetrySent n t lead).st = s.st ∧
    (s.cueRetrySent n t lead).slot = s.slot ∧ (s.cueRetrySent n t lead).cg = s.cg ∧
    (s.cueRetrySent n t lead).fb = s.fb ∧ (s.cueRetrySent n t lead).lc = s.lc ∧ (s.cueRetrySent n t lead).hp = s.hp ∧
    (s.cueRetrySent n t lead).counters = s.counters ∧ (s.cueRetrySent n t lead).trig0 = s.trig0 ∧
    (s.cueRetrySent n t lead).trig1 = s.trig1 ∧ (s.cueRetrySent n t lead).ticks = s.ticks ∧
    (s.cueRetrySent n t lead).choices = s.choices ∧ (s.cueRetrySent n t lead).pending = s.pending := by
  simp [State.cueRetrySent]

@[simp] theorem State.cancelFirstSend_frame (s : State) (n : Serial) (self : Option Verdict) :
    (s.cancelFirstSend n self).sc = s.sc ∧ (s.cancelFirstSend n self).hold = s.hold ∧
    (s.cancelFirstSend n self).ct = s.ct ∧ (s.cancelFirstSend n self).st = s.st ∧
    (s.cancelFirstSend n self).slot = s.slot ∧ (s.cancelFirstSend n self).cg = s.cg ∧
    (s.cancelFirstSend n self).fb = s.fb ∧ (s.cancelFirstSend n self).lc = s.lc ∧
    (s.cancelFirstSend n self).hp = s.hp ∧ (s.cancelFirstSend n self).counters = s.counters ∧
    (s.cancelFirstSend n self).trig0 = s.trig0 ∧ (s.cancelFirstSend n self).trig1 = s.trig1 ∧
    (s.cancelFirstSend n self).ticks = s.ticks ∧ (s.cancelFirstSend n self).choices = s.choices ∧
    (s.cancelFirstSend n self).pending = s.pending := by
  unfold State.cancelFirstSend; constructorm* _ ∧ _ <;> repeat' (first | (simp; done) | split)

@[simp] theorem State.cancelRetrySent_frame (s : State) (n : Serial) :
    (s.cancelRetrySent n).sc = s.sc ∧ (s.cancelRetrySent n).hold = s.hold ∧ (s.cancelRetrySent n).ct = s.ct ∧
    (s.cancelRetrySent n).st = s.st ∧ (s.cancelRetrySent n).slot = s.slot ∧ (s.cancelRetrySent n).cq = s.cq ∧
    (s.cancelRetrySent n).cg = s.cg ∧ (s.cancelRetrySent n).fb = s.fb ∧ (s.cancelRetrySent n).lc = s.lc ∧
    (s.cancelRetrySent n).hp = s.hp ∧ (s.cancelRetrySent n).counters = s.counters ∧
    (s.cancelRetrySent n).trig0 = s.trig0 ∧ (s.cancelRetrySent n).trig1 = s.trig1 ∧
    (s.cancelRetrySent n).ticks = s.ticks ∧ (s.cancelRetrySent n).choices = s.choices ∧
    (s.cancelRetrySent n).pending = s.pending := by
  simp [State.cancelRetrySent]

@[simp] theorem State.itemSent_frame (s : State) (item : TxItem) :
    (s.itemSent item).sc = s.sc ∧ (s.itemSent item).hold = s.hold ∧ (s.itemSent item).ct = s.ct ∧
    (s.itemSent item).st = s.st ∧ (s.itemSent item).slot = s.slot ∧ (s.itemSent item).cg = s.cg ∧
    (s.itemSent item).fb = s.fb ∧ (s.itemSent item).lc = s.lc ∧ (s.itemSent item).hp = s.hp ∧
    (s.itemSent item).counters = s.counters ∧ (s.itemSent item).trig0 = s.trig0 ∧ (s.itemSent item).trig1 = s.trig1 ∧
    (s.itemSent item).ticks = s.ticks ∧ (s.itemSent item).choices = s.choices ∧ (s.itemSent item).pending = s.pending := by
  unfold State.itemSent; constructorm* _ ∧ _ <;> repeat' (first | simp | split)

@[simp] theorem State.itemsFailed_frame (s : State) (items : List TxItem) :
    (s.itemsFailed items).sc = s.sc ∧ (s.itemsFailed items).hold = s.hold ∧ (s.itemsFailed items).ct = s.ct ∧
    (s.itemsFailed items).st = s.st ∧ (s.itemsFailed items).slot = s.slot ∧ (s.itemsFailed items).cq = s.cq ∧
    (s.itemsFailed items).cg = s.cg ∧ (s.itemsFailed items).fb = s.fb ∧ (s.itemsFailed items).lc = s.lc ∧
    (s.itemsFailed items).hp = s.hp ∧ (s.itemsFailed items).counters = s.counters ∧
    (s.itemsFailed items).trig0 = s.trig0 ∧ (s.itemsFailed items).trig1 = s.trig1 ∧
    (s.itemsFailed items).ticks = s.ticks ∧ (s.itemsFailed items).choices = s.choices ∧
    (s.itemsFailed items).pending = s.pending := by
  simp [State.itemsFailed]

@[simp] theorem State.changeState_frame (s : State) (after : StationState) (reason : Reason) :
    (s.changeState after reason).hold = s.hold ∧ (s.changeState after reason).ct = s.ct ∧
    (s.changeState after reason).st = s.st ∧ (s.changeState after reason).slot = s.slot ∧
    (s.changeState after reason).cq = s.cq ∧ (s.changeState after reason).cg = s.cg ∧
    (s.changeState after reason).ob = s.ob ∧ (s.changeState after reason).lc = s.lc ∧
    (s.changeState after reason).hp = s.hp ∧ (s.changeState after reason).counters = s.counters ∧
    (s.changeState after reason).trig0 = s.trig0 ∧ (s.changeState after reason).trig1 = s.trig1 ∧
    (s.changeState after reason).ticks = s.ticks ∧ (s.changeState after reason).choices = s.choices ∧
    (s.changeState after reason).pending = s.pending := by
  simp [State.changeState]

@[simp] theorem State.checkCounts_frame (s : State) :
    (s.checkCounts).hold = s.hold ∧ (s.checkCounts).ct = s.ct ∧ (s.checkCounts).st = s.st ∧
    (s.checkCounts).slot = s.slot ∧ (s.checkCounts).cq = s.cq ∧ (s.checkCounts).cg = s.cg ∧
    (s.checkCounts).ob = s.ob ∧ (s.checkCounts).lc = s.lc ∧ (s.checkCounts).hp = s.hp ∧
    (s.checkCounts).counters = s.counters ∧ (s.checkCounts).trig0 = s.trig0 ∧ (s.checkCounts).trig1 = s.trig1 ∧
    (s.checkCounts).ticks = s.ticks ∧ (s.checkCounts).choices = s.choices ∧ (s.checkCounts).pending = s.pending := by
  unfold State.checkCounts; constructorm* _ ∧ _ <;> repeat' (first | simp | split)

@[simp] theorem State.dropWork_frame (s : State) (after : StationState) :
    (s.dropWork after).hold = s.hold ∧ (s.dropWork after).ct = s.ct ∧ (s.dropWork after).cg = s.cg ∧
    (s.dropWork after).hp = s.hp ∧ (s.dropWork after).ev = s.ev ∧ (s.dropWork after).counters = s.counters ∧
    (s.dropWork after).trig0 = s.trig0 ∧ (s.dropWork after).trig1 = s.trig1 ∧ (s.dropWork after).ticks = s.ticks ∧
    (s.dropWork after).choices = s.choices ∧ (s.dropWork after).pending = s.pending := by
  simp [State.dropWork]

@[simp] theorem State.standOff_frame (s : State) (after : StationState) (reason : FaultReason) :
    (s.standOff after reason).hold = s.hold ∧ (s.standOff after reason).hp = s.hp ∧
    (s.standOff after reason).ev = s.ev ∧ (s.standOff after reason).counters = s.counters ∧
    (s.standOff after reason).trig0 = s.trig0 ∧ (s.standOff after reason).trig1 = s.trig1 ∧
    (s.standOff after reason).ticks = s.ticks ∧ (s.standOff after reason).choices = s.choices ∧
    (s.standOff after reason).pending = s.pending := by
  simp [State.standOff]

@[simp] theorem State.enterLineFault_frame (s : State) (reason : FaultReason) :
    (s.enterLineFault reason).hold = s.hold ∧ (s.enterLineFault reason).hp = s.hp ∧
    (s.enterLineFault reason).counters = s.counters ∧ (s.enterLineFault reason).trig0 = s.trig0 ∧
    (s.enterLineFault reason).trig1 = s.trig1 ∧ (s.enterLineFault reason).ticks = s.ticks ∧
    (s.enterLineFault reason).choices = s.choices ∧ (s.enterLineFault reason).pending = s.pending := by
  simp [State.enterLineFault]

@[simp] theorem State.enterHalted_frame (s : State) (reason : FaultReason) :
    (s.enterHalted reason).hold = s.hold ∧ (s.enterHalted reason).hp = s.hp ∧
    (s.enterHalted reason).counters = s.counters ∧ (s.enterHalted reason).trig0 = s.trig0 ∧
    (s.enterHalted reason).trig1 = s.trig1 ∧ (s.enterHalted reason).ticks = s.ticks ∧
    (s.enterHalted reason).choices = s.choices ∧ (s.enterHalted reason).pending = s.pending := by
  simp [State.enterHalted]

@[simp] theorem State.resync_frame (s : State) (reason : Reason) (own : EventRecord) :
    (s.resync reason own).hold = s.hold ∧ (s.resync reason own).ct = s.ct ∧ (s.resync reason own).cg = s.cg ∧
    (s.resync reason own).hp = s.hp ∧ (s.resync reason own).counters = s.counters ∧
    (s.resync reason own).trig0 = s.trig0 ∧ (s.resync reason own).trig1 = s.trig1 ∧
    (s.resync reason own).ticks = s.ticks ∧ (s.resync reason own).choices = s.choices ∧
    (s.resync reason own).pending = s.pending := by
  simp [State.resync]

@[simp] theorem State.stage_frame (s : State) (id : CueId) (v : Verdict) :
    (s.stage id v).sc = s.sc ∧ (s.stage id v).hold = s.hold ∧ (s.stage id v).ct = s.ct ∧ (s.stage id v).st = s.st ∧
    (s.stage id v).slot = s.slot ∧ (s.stage id v).cq = s.cq ∧ (s.stage id v).cg = s.cg ∧ (s.stage id v).ob = s.ob ∧
    (s.stage id v).lc = s.lc ∧ (s.stage id v).hp = s.hp ∧ (s.stage id v).ev = s.ev ∧ (s.stage id v).trig0 = s.trig0 ∧
    (s.stage id v).trig1 = s.trig1 ∧ (s.stage id v).ticks = s.ticks ∧ (s.stage id v).choices = s.choices ∧
    (s.stage id v).pending = s.pending := by
  unfold State.stage; constructorm* _ ∧ _ <;> repeat' (first | (simp; done) | split)

@[simp] theorem State.fixSlotFrame_frame (s : State) (slot : Nat) :
    (s.fixSlotFrame slot).sc = s.sc ∧ (s.fixSlotFrame slot).hold = s.hold ∧ (s.fixSlotFrame slot).ct = s.ct ∧
    (s.fixSlotFrame slot).st = s.st ∧ (s.fixSlotFrame slot).slot = s.slot ∧ (s.fixSlotFrame slot).cq = s.cq ∧
    (s.fixSlotFrame slot).cg = s.cg ∧ (s.fixSlotFrame slot).hp = s.hp ∧ (s.fixSlotFrame slot).ev = s.ev ∧
    (s.fixSlotFrame slot).counters = s.counters ∧ (s.fixSlotFrame slot).trig0 = s.trig0 ∧
    (s.fixSlotFrame slot).trig1 = s.trig1 ∧ (s.fixSlotFrame slot).ticks = s.ticks ∧
    (s.fixSlotFrame slot).choices = s.choices ∧ (s.fixSlotFrame slot).pending = s.pending := by
  simp [State.fixSlotFrame]

@[simp] theorem State.fixClaim_frame (s : State) (r : Nat) :
    (s.fixClaim r).sc = s.sc ∧ (s.fixClaim r).hold = s.hold ∧ (s.fixClaim r).ct = s.ct ∧ (s.fixClaim r).st = s.st ∧
    (s.fixClaim r).slot = s.slot ∧ (s.fixClaim r).cq = s.cq ∧ (s.fixClaim r).cg = s.cg ∧ (s.fixClaim r).ob = s.ob ∧
    (s.fixClaim r).hp = s.hp ∧ (s.fixClaim r).ev = s.ev ∧ (s.fixClaim r).counters = s.counters ∧
    (s.fixClaim r).trig0 = s.trig0 ∧ (s.fixClaim r).trig1 = s.trig1 ∧ (s.fixClaim r).ticks = s.ticks ∧
    (s.fixClaim r).choices = s.choices ∧ (s.fixClaim r).pending = s.pending := by
  simp [State.fixClaim]

@[simp] theorem State.endFrame_frame (s : State) (own : OwnOutcome) :
    (s.endFrame own).sc = s.sc ∧ (s.endFrame own).hold = s.hold ∧ (s.endFrame own).ct = s.ct ∧
    (s.endFrame own).st = s.st ∧ (s.endFrame own).cq = s.cq ∧ (s.endFrame own).cg = s.cg ∧
    (s.endFrame own).ob = s.ob ∧ (s.endFrame own).hp = s.hp ∧ (s.endFrame own).ev = s.ev ∧
    (s.endFrame own).counters = s.counters ∧ (s.endFrame own).trig0 = s.trig0 ∧ (s.endFrame own).trig1 = s.trig1 ∧
    (s.endFrame own).ticks = s.ticks ∧ (s.endFrame own).choices = s.choices ∧ (s.endFrame own).pending = s.pending := by
  simp [State.endFrame]

@[simp] theorem State.setFailures_frame (s : State) (slot n : Nat) :
    (s.setFailures slot n).sc = s.sc ∧ (s.setFailures slot n).hold = s.hold ∧ (s.setFailures slot n).ct = s.ct ∧
    (s.setFailures slot n).slot = s.slot ∧ (s.setFailures slot n).cq = s.cq ∧ (s.setFailures slot n).cg = s.cg ∧
    (s.setFailures slot n).ob = s.ob ∧ (s.setFailures slot n).fb = s.fb ∧ (s.setFailures slot n).lc = s.lc ∧
    (s.setFailures slot n).hp = s.hp ∧ (s.setFailures slot n).ev = s.ev ∧
    (s.setFailures slot n).counters = s.counters ∧ (s.setFailures slot n).trig0 = s.trig0 ∧
    (s.setFailures slot n).trig1 = s.trig1 ∧ (s.setFailures slot n).ticks = s.ticks ∧
    (s.setFailures slot n).choices = s.choices ∧ (s.setFailures slot n).pending = s.pending := by
  unfold State.setFailures; split <;> simp

@[simp] theorem State.releaseOwn_frame (s : State) (slot : Nat) :
    (s.releaseOwn slot).hold = s.hold ∧ (s.releaseOwn slot).ct = s.ct ∧ (s.releaseOwn slot).slot = s.slot ∧
    (s.releaseOwn slot).cq = s.cq ∧ (s.releaseOwn slot).cg = s.cg ∧ (s.releaseOwn slot).ob = s.ob ∧
    (s.releaseOwn slot).lc = s.lc ∧ (s.releaseOwn slot).hp = s.hp ∧ (s.releaseOwn slot).counters = s.counters ∧
    (s.releaseOwn slot).trig0 = s.trig0 ∧ (s.releaseOwn slot).trig1 = s.trig1 ∧ (s.releaseOwn slot).ticks = s.ticks ∧
    (s.releaseOwn slot).choices = s.choices ∧ (s.releaseOwn slot).pending = s.pending := by
  unfold State.releaseOwn; split <;> simp

@[simp] theorem State.loseOwn_frame (s : State) (slot : Nat) :
    (s.loseOwn slot).hold = s.hold ∧ (s.loseOwn slot).ct = s.ct ∧ (s.loseOwn slot).slot = s.slot ∧
    (s.loseOwn slot).cq = s.cq ∧ (s.loseOwn slot).cg = s.cg ∧ (s.loseOwn slot).ob = s.ob ∧
    (s.loseOwn slot).lc = s.lc ∧ (s.loseOwn slot).hp = s.hp ∧ (s.loseOwn slot).counters = s.counters ∧
    (s.loseOwn slot).trig0 = s.trig0 ∧ (s.loseOwn slot).trig1 = s.trig1 ∧ (s.loseOwn slot).ticks = s.ticks ∧
    (s.loseOwn slot).choices = s.choices ∧ (s.loseOwn slot).pending = s.pending := by
  unfold State.loseOwn; constructorm* _ ∧ _ <;> repeat' (first | (simp; done) | split)

@[simp] theorem State.loseHeld_frame (s : State) (z : Station) (slot : Nat) (reason : LossReason) :
    (s.loseHeld z slot reason).sc = s.sc ∧ (s.loseHeld z slot reason).hold = s.hold ∧
    (s.loseHeld z slot reason).ct = s.ct ∧ (s.loseHeld z slot reason).slot = s.slot ∧
    (s.loseHeld z slot reason).cq = s.cq ∧ (s.loseHeld z slot reason).cg = s.cg ∧
    (s.loseHeld z slot reason).fb = s.fb ∧ (s.loseHeld z slot reason).lc = s.lc ∧
    (s.loseHeld z slot reason).hp = s.hp ∧ (s.loseHeld z slot reason).counters = s.counters ∧
    (s.loseHeld z slot reason).trig0 = s.trig0 ∧ (s.loseHeld z slot reason).trig1 = s.trig1 ∧
    (s.loseHeld z slot reason).ticks = s.ticks ∧ (s.loseHeld z slot reason).choices = s.choices ∧
    (s.loseHeld z slot reason).pending = s.pending := by
  unfold State.loseHeld State.peerGone; constructorm* _ ∧ _ <;> repeat' (first | (simp; done) | split)

@[simp] theorem State.recordClaim_frame (s : State) (r : Nat) (c : Station) :
    (s.recordClaim r c).hold = s.hold ∧ (s.recordClaim r c).ct = s.ct ∧ (s.recordClaim r c).slot = s.slot ∧
    (s.recordClaim r c).cq = s.cq ∧ (s.recordClaim r c).cg = s.cg ∧ (s.recordClaim r c).lc = s.lc ∧
    (s.recordClaim r c).hp = s.hp ∧ (s.recordClaim r c).counters = s.counters ∧ (s.recordClaim r c).trig0 = s.trig0 ∧
    (s.recordClaim r c).trig1 = s.trig1 ∧ (s.recordClaim r c).ticks = s.ticks ∧
    (s.recordClaim r c).choices = s.choices ∧ (s.recordClaim r c).pending = s.pending := by
  unfold State.recordClaim; constructorm* _ ∧ _ <;> repeat' (first | (simp; done) | split | simp)

@[simp] theorem State.applyClaim_frame (s : State) (r c : Nat) :
    (s.applyClaim r c).hold = s.hold ∧ (s.applyClaim r c).ct = s.ct ∧ (s.applyClaim r c).slot = s.slot ∧
    (s.applyClaim r c).cq = s.cq ∧ (s.applyClaim r c).cg = s.cg ∧ (s.applyClaim r c).lc = s.lc ∧
    (s.applyClaim r c).hp = s.hp ∧ (s.applyClaim r c).counters = s.counters ∧ (s.applyClaim r c).trig0 = s.trig0 ∧
    (s.applyClaim r c).trig1 = s.trig1 ∧ (s.applyClaim r c).ticks = s.ticks ∧ (s.applyClaim r c).choices = s.choices ∧
    (s.applyClaim r c).pending = s.pending := by
  unfold State.applyClaim; constructorm* _ ∧ _ <;> repeat' (first | (simp; done) | split)

@[simp] theorem State.peerGone_frame (s : State) (z : Station) (slot : Nat) (reason : LossReason) :
    let t := (s.peerGone z slot reason).1
    t.sc = s.sc ∧ t.hold = s.hold ∧ t.ct = s.ct ∧ t.slot = s.slot ∧ t.cq = s.cq ∧ t.cg = s.cg ∧
    t.fb = s.fb ∧ t.lc = s.lc ∧ t.hp = s.hp ∧ t.counters = s.counters ∧ t.trig0 = s.trig0 ∧
    t.trig1 = s.trig1 ∧ t.ticks = s.ticks ∧ t.choices = s.choices ∧ t.pending = s.pending := by
  unfold State.peerGone
  split
  · simp
  · split <;> simp

@[simp] theorem State.seeOwner_frame (s : State) (slot : Nat) (z : Station) :
    (s.seeOwner slot z).hold = s.hold ∧ (s.seeOwner slot z).ct = s.ct ∧ (s.seeOwner slot z).slot = s.slot ∧
    (s.seeOwner slot z).cq = s.cq ∧ (s.seeOwner slot z).cg = s.cg ∧ (s.seeOwner slot z).lc = s.lc ∧
    (s.seeOwner slot z).hp = s.hp ∧ (s.seeOwner slot z).counters = s.counters ∧ (s.seeOwner slot z).trig0 = s.trig0 ∧
    (s.seeOwner slot z).trig1 = s.trig1 ∧ (s.seeOwner slot z).ticks = s.ticks ∧
    (s.seeOwner slot z).pending = s.pending := by
  unfold State.seeOwner
  extract_lets before put checked gone
  have hp : put.hold = s.hold ∧ put.ct = s.ct ∧ put.slot = s.slot ∧ put.cq = s.cq ∧ put.cg = s.cg ∧ put.lc = s.lc ∧
      put.hp = s.hp ∧ put.counters = s.counters ∧ put.trig0 = s.trig0 ∧ put.trig1 = s.trig1 ∧ put.ticks = s.ticks ∧
      put.pending = s.pending := by
    simp [put]
  have hc : checked.hold = s.hold ∧ checked.ct = s.ct ∧ checked.slot = s.slot ∧ checked.cq = s.cq ∧
      checked.cg = s.cg ∧ checked.lc = s.lc ∧ checked.hp = s.hp ∧ checked.counters = s.counters ∧
      checked.trig0 = s.trig0 ∧ checked.trig1 = s.trig1 ∧ checked.ticks = s.ticks ∧ checked.pending = s.pending := by
    simp only [checked]
    split
    · simpa using hp
    · exact hp
  have hg : gone.1.hold = s.hold ∧ gone.1.ct = s.ct ∧ gone.1.slot = s.slot ∧ gone.1.cq = s.cq ∧ gone.1.cg = s.cg ∧
      gone.1.lc = s.lc ∧ gone.1.hp = s.hp ∧ gone.1.counters = s.counters ∧ gone.1.trig0 = s.trig0 ∧
      gone.1.trig1 = s.trig1 ∧ gone.1.ticks = s.ticks ∧ gone.1.pending = s.pending := by
    simp only [gone]
    clear_value before checked
    split
    · split
      · exact hc
      · simpa using hc
    · exact hc
    · exact hc
  split
  · simpa using hg
  · simpa using hg

@[simp] theorem State.seeSilence_frame (s : State) (slot : Nat) :
    (s.seeSilence slot).hold = s.hold ∧ (s.seeSilence slot).ct = s.ct ∧ (s.seeSilence slot).slot = s.slot ∧
    (s.seeSilence slot).cq = s.cq ∧ (s.seeSilence slot).cg = s.cg ∧ (s.seeSilence slot).lc = s.lc ∧
    (s.seeSilence slot).hp = s.hp ∧ (s.seeSilence slot).counters = s.counters ∧ (s.seeSilence slot).trig0 = s.trig0 ∧
    (s.seeSilence slot).trig1 = s.trig1 ∧ (s.seeSilence slot).ticks = s.ticks ∧
    (s.seeSilence slot).choices = s.choices ∧ (s.seeSilence slot).pending = s.pending := by
  unfold State.seeSilence; constructorm* _ ∧ _ <;> repeat' (first | (simp; done) | split)

@[simp] theorem State.applyRelease_frame (s : State) (z : Station) (r : Nat) :
    (State.applyRelease z s r).sc = s.sc ∧ (State.applyRelease z s r).hold = s.hold ∧
    (State.applyRelease z s r).ct = s.ct ∧ (State.applyRelease z s r).slot = s.slot ∧
    (State.applyRelease z s r).cq = s.cq ∧ (State.applyRelease z s r).cg = s.cg ∧
    (State.applyRelease z s r).fb = s.fb ∧ (State.applyRelease z s r).lc = s.lc ∧
    (State.applyRelease z s r).hp = s.hp ∧ (State.applyRelease z s r).counters = s.counters ∧
    (State.applyRelease z s r).trig0 = s.trig0 ∧ (State.applyRelease z s r).trig1 = s.trig1 ∧
    (State.applyRelease z s r).ticks = s.ticks ∧ (State.applyRelease z s r).choices = s.choices ∧
    (State.applyRelease z s r).pending = s.pending := by
  unfold State.applyRelease; constructorm* _ ∧ _ <;> repeat' (first | simp | split)

@[simp] theorem State.judgeHeard_frame (s : State) (slot : Nat) :
    (s.judgeHeard slot).hold = s.hold ∧ (s.judgeHeard slot).ct = s.ct ∧ (s.judgeHeard slot).slot = s.slot ∧
    (s.judgeHeard slot).cq = s.cq ∧ (s.judgeHeard slot).cg = s.cg ∧ (s.judgeHeard slot).lc = s.lc ∧
    (s.judgeHeard slot).hp = s.hp ∧ (s.judgeHeard slot).counters = s.counters ∧ (s.judgeHeard slot).trig0 = s.trig0 ∧
    (s.judgeHeard slot).trig1 = s.trig1 ∧ (s.judgeHeard slot).ticks = s.ticks ∧
    (s.judgeHeard slot).pending = s.pending := by
  unfold State.judgeHeard; constructorm* _ ∧ _ <;> repeat' (first | simp [foldl_keeps] | split)

@[simp] theorem State.judgeCompleted_frame (s : State) (slot : Nat) :
    (s.judgeCompleted slot).hold = s.hold ∧ (s.judgeCompleted slot).ct = s.ct ∧
    (s.judgeCompleted slot).slot = s.slot ∧ (s.judgeCompleted slot).cq = s.cq ∧ (s.judgeCompleted slot).cg = s.cg ∧
    (s.judgeCompleted slot).ob = s.ob ∧ (s.judgeCompleted slot).lc = s.lc ∧ (s.judgeCompleted slot).hp = s.hp ∧
    (s.judgeCompleted slot).counters = s.counters ∧ (s.judgeCompleted slot).trig0 = s.trig0 ∧
    (s.judgeCompleted slot).trig1 = s.trig1 ∧ (s.judgeCompleted slot).ticks = s.ticks ∧
    (s.judgeCompleted slot).choices = s.choices ∧ (s.judgeCompleted slot).pending = s.pending := by
  unfold State.judgeCompleted; constructorm* _ ∧ _ <;> repeat' (first | (simp; done) | split)

@[simp] theorem State.judgeBroken_frame (s : State) (slot : Nat) :
    (s.judgeBroken slot).hold = s.hold ∧ (s.judgeBroken slot).ct = s.ct ∧ (s.judgeBroken slot).slot = s.slot ∧
    (s.judgeBroken slot).cq = s.cq ∧ (s.judgeBroken slot).cg = s.cg ∧ (s.judgeBroken slot).ob = s.ob ∧
    (s.judgeBroken slot).lc = s.lc ∧ (s.judgeBroken slot).hp = s.hp ∧ (s.judgeBroken slot).counters = s.counters ∧
    (s.judgeBroken slot).trig0 = s.trig0 ∧ (s.judgeBroken slot).trig1 = s.trig1 ∧
    (s.judgeBroken slot).ticks = s.ticks ∧ (s.judgeBroken slot).choices = s.choices ∧
    (s.judgeBroken slot).pending = s.pending := by
  unfold State.judgeBroken; constructorm* _ ∧ _ <;> repeat' (first | (simp; done) | split)

@[simp] theorem State.judge_frame (s : State) :
    (s.judge).hold = s.hold ∧ (s.judge).ct = s.ct ∧ (s.judge).cq = s.cq ∧ (s.judge).cg = s.cg ∧ (s.judge).lc = s.lc ∧
    (s.judge).hp = s.hp ∧ (s.judge).counters = s.counters ∧ (s.judge).trig0 = s.trig0 ∧ (s.judge).trig1 = s.trig1 ∧
    (s.judge).ticks = s.ticks ∧ (s.judge).pending = s.pending := by
  unfold State.judge; constructorm* _ ∧ _ <;> repeat' (first | (simp; done) | split)

@[simp] theorem State.note_frame (s : State) (f : Finding) :
    (s.note f).sc = s.sc ∧ (s.note f).hold = s.hold ∧ (s.note f).ct = s.ct ∧ (s.note f).st = s.st ∧
    (s.note f).cq = s.cq ∧ (s.note f).cg = s.cg ∧ (s.note f).ob = s.ob ∧ (s.note f).fb = s.fb ∧ (s.note f).hp = s.hp ∧
    (s.note f).ev = s.ev ∧ (s.note f).counters = s.counters ∧ (s.note f).trig0 = s.trig0 ∧
    (s.note f).trig1 = s.trig1 ∧ (s.note f).ticks = s.ticks ∧ (s.note f).choices = s.choices ∧
    (s.note f).pending = s.pending := by
  simp [State.note]

@[simp] theorem State.judgeLate_frame (s : State) :
    (s.judgeLate).hold = s.hold ∧ (s.judgeLate).ct = s.ct ∧ (s.judgeLate).cq = s.cq ∧ (s.judgeLate).cg = s.cg ∧
    (s.judgeLate).lc = s.lc ∧ (s.judgeLate).hp = s.hp ∧ (s.judgeLate).counters = s.counters ∧
    (s.judgeLate).trig0 = s.trig0 ∧ (s.judgeLate).trig1 = s.trig1 ∧ (s.judgeLate).ticks = s.ticks ∧
    (s.judgeLate).pending = s.pending := by
  unfold State.judgeLate; split <;> simp

@[simp] theorem State.lostAhead_frame (s : State) :
    (s.lostAhead).sc = s.sc ∧ (s.lostAhead).hold = s.hold ∧ (s.lostAhead).ct = s.ct ∧ (s.lostAhead).st = s.st ∧
    (s.lostAhead).cq = s.cq ∧ (s.lostAhead).cg = s.cg ∧ (s.lostAhead).ob = s.ob ∧ (s.lostAhead).fb = s.fb ∧
    (s.lostAhead).hp = s.hp ∧ (s.lostAhead).ev = s.ev ∧ (s.lostAhead).trig0 = s.trig0 ∧
    (s.lostAhead).trig1 = s.trig1 ∧ (s.lostAhead).ticks = s.ticks ∧ (s.lostAhead).choices = s.choices ∧
    (s.lostAhead).pending = s.pending := by
  simp [State.lostAhead]

@[simp] theorem State.frameLost_frame (s : State) :
    (s.frameLost).hold = s.hold ∧ (s.frameLost).ct = s.ct ∧ (s.frameLost).cq = s.cq ∧ (s.frameLost).cg = s.cg ∧
    (s.frameLost).hp = s.hp ∧ (s.frameLost).trig0 = s.trig0 ∧ (s.frameLost).trig1 = s.trig1 ∧
    (s.frameLost).ticks = s.ticks ∧ (s.frameLost).pending = s.pending := by
  simp [State.frameLost]

@[simp] theorem State.takeCueItem_frame (s : State) (item : CueItem) :
    (s.takeCueItem item).sc = s.sc ∧ (s.takeCueItem item).hold = s.hold ∧ (s.takeCueItem item).ct = s.ct ∧
    (s.takeCueItem item).st = s.st ∧ (s.takeCueItem item).slot = s.slot ∧ (s.takeCueItem item).cg = s.cg ∧
    (s.takeCueItem item).ob = s.ob ∧ (s.takeCueItem item).lc = s.lc ∧ (s.takeCueItem item).hp = s.hp ∧
    (s.takeCueItem item).trig0 = s.trig0 ∧ (s.takeCueItem item).trig1 = s.trig1 ∧
    (s.takeCueItem item).ticks = s.ticks ∧ (s.takeCueItem item).choices = s.choices ∧
    (s.takeCueItem item).pending = s.pending := by
  simp [State.takeCueItem]

@[simp] theorem State.takeCancelItem_frame (s : State) (id : CueId) :
    (s.takeCancelItem id).sc = s.sc ∧ (s.takeCancelItem id).hold = s.hold ∧ (s.takeCancelItem id).ct = s.ct ∧
    (s.takeCancelItem id).st = s.st ∧ (s.takeCancelItem id).slot = s.slot ∧ (s.takeCancelItem id).cg = s.cg ∧
    (s.takeCancelItem id).ob = s.ob ∧ (s.takeCancelItem id).lc = s.lc ∧ (s.takeCancelItem id).hp = s.hp ∧
    (s.takeCancelItem id).ev = s.ev ∧ (s.takeCancelItem id).trig0 = s.trig0 ∧ (s.takeCancelItem id).trig1 = s.trig1 ∧
    (s.takeCancelItem id).ticks = s.ticks ∧ (s.takeCancelItem id).choices = s.choices ∧
    (s.takeCancelItem id).pending = s.pending := by
  simp [State.takeCancelItem]

@[simp] theorem State.dispatch_frame (s : State) (z : Station) (item : LineItem) :
    (State.dispatch z s item).sc = s.sc ∧ (State.dispatch z s item).hold = s.hold ∧
    (State.dispatch z s item).ct = s.ct ∧ (State.dispatch z s item).st = s.st ∧ (State.dispatch z s item).cg = s.cg ∧
    (State.dispatch z s item).lc = s.lc ∧ (State.dispatch z s item).hp = s.hp ∧
    (State.dispatch z s item).trig0 = s.trig0 ∧ (State.dispatch z s item).trig1 = s.trig1 ∧
    (State.dispatch z s item).ticks = s.ticks ∧ (State.dispatch z s item).choices = s.choices ∧
    (State.dispatch z s item).pending = s.pending := by
  unfold State.dispatch; constructorm* _ ∧ _ <;> repeat' (first | (simp; done) | split)

@[simp] theorem State.takeFrame_frame (s : State) (z : Station) (bs : List Byte) :
    (s.takeFrame z bs).sc = s.sc ∧ (s.takeFrame z bs).hold = s.hold ∧ (s.takeFrame z bs).ct = s.ct ∧
    (s.takeFrame z bs).st = s.st ∧ (s.takeFrame z bs).cg = s.cg ∧ (s.takeFrame z bs).lc = s.lc ∧
    (s.takeFrame z bs).hp = s.hp ∧ (s.takeFrame z bs).trig0 = s.trig0 ∧ (s.takeFrame z bs).trig1 = s.trig1 ∧
    (s.takeFrame z bs).ticks = s.ticks ∧ (s.takeFrame z bs).choices = s.choices ∧
    (s.takeFrame z bs).pending = s.pending := by
  unfold State.takeFrame; constructorm* _ ∧ _ <;> repeat' (first | (simp [foldl_keeps]; done) | split | simp only)

@[simp] theorem State.takeClaim_frame (s : State) (r : Byte) :
    (s.takeClaim r).sc = s.sc ∧ (s.takeClaim r).hold = s.hold ∧ (s.takeClaim r).ct = s.ct ∧
    (s.takeClaim r).st = s.st ∧ (s.takeClaim r).slot = s.slot ∧ (s.takeClaim r).cq = s.cq ∧
    (s.takeClaim r).cg = s.cg ∧ (s.takeClaim r).ob = s.ob ∧ (s.takeClaim r).fb = s.fb ∧ (s.takeClaim r).lc = s.lc ∧
    (s.takeClaim r).hp = s.hp ∧ (s.takeClaim r).ev = s.ev ∧ (s.takeClaim r).trig0 = s.trig0 ∧
    (s.takeClaim r).trig1 = s.trig1 ∧ (s.takeClaim r).ticks = s.ticks ∧ (s.takeClaim r).choices = s.choices ∧
    (s.takeClaim r).pending = s.pending := by
  unfold State.takeClaim; split <;> simp

@[simp] theorem State.takeValid_frame (s : State) (f : Finding) (bs : List Byte) :
    (s.takeValid f bs).hold = s.hold ∧ (s.takeValid f bs).hp = s.hp ∧ (s.takeValid f bs).trig0 = s.trig0 ∧
    (s.takeValid f bs).trig1 = s.trig1 ∧ (s.takeValid f bs).ticks = s.ticks ∧ (s.takeValid f bs).pending = s.pending := by
  unfold State.takeValid; constructorm* _ ∧ _ <;> repeat' (first | simp | split)

@[simp] theorem State.receive_frame (s : State) (bs : List Byte) (framingError : Bool) :
    (s.receive bs framingError).hold = s.hold ∧ (s.receive bs framingError).hp = s.hp ∧
    (s.receive bs framingError).trig0 = s.trig0 ∧ (s.receive bs framingError).trig1 = s.trig1 ∧
    (s.receive bs framingError).ticks = s.ticks ∧ (s.receive bs framingError).pending = s.pending := by
  unfold State.receive; constructorm* _ ∧ _ <;> repeat' (first | (simp; done) | split)

@[simp] theorem State.beginOpening_frame (s : State) (position : Nat) :
    (s.beginOpening position).sc = s.sc ∧ (s.beginOpening position).hold = s.hold ∧
    (s.beginOpening position).st = s.st ∧ (s.beginOpening position).cq = s.cq ∧ (s.beginOpening position).cg = s.cg ∧
    (s.beginOpening position).ob = s.ob ∧ (s.beginOpening position).fb = s.fb ∧ (s.beginOpening position).hp = s.hp ∧
    (s.beginOpening position).ev = s.ev ∧ (s.beginOpening position).counters = s.counters ∧
    (s.beginOpening position).trig0 = s.trig0 ∧ (s.beginOpening position).trig1 = s.trig1 ∧
    (s.beginOpening position).ticks = s.ticks ∧ (s.beginOpening position).choices = s.choices ∧
    (s.beginOpening position).pending = s.pending := by
  simp [State.beginOpening]

@[simp] theorem State.endNumberField_frame (s : State) (o : Opening) (read : BitVec 32) (mismatch : Bool) :
    (s.endNumberField o read mismatch).sc = s.sc ∧ (s.endNumberField o read mismatch).hold = s.hold ∧
    (s.endNumberField o read mismatch).st = s.st ∧ (s.endNumberField o read mismatch).slot = s.slot ∧
    (s.endNumberField o read mismatch).cq = s.cq ∧ (s.endNumberField o read mismatch).cg = s.cg ∧
    (s.endNumberField o read mismatch).ob = s.ob ∧ (s.endNumberField o read mismatch).fb = s.fb ∧
    (s.endNumberField o read mismatch).hp = s.hp ∧ (s.endNumberField o read mismatch).ev = s.ev ∧
    (s.endNumberField o read mismatch).counters = s.counters ∧ (s.endNumberField o read mismatch).trig0 = s.trig0 ∧
    (s.endNumberField o read mismatch).trig1 = s.trig1 ∧ (s.endNumberField o read mismatch).ticks = s.ticks ∧
    (s.endNumberField o read mismatch).choices = s.choices ∧ (s.endNumberField o read mismatch).pending = s.pending := by
  simp [State.endNumberField]

@[simp] theorem State.learnAt_frame (s : State) (role : OpeningRole) (backward : Bool) :
    (s.learnAt role backward).hold = s.hold ∧ (s.learnAt role backward).ct = s.ct ∧
    (s.learnAt role backward).st = s.st ∧ (s.learnAt role backward).slot = s.slot ∧
    (s.learnAt role backward).cq = s.cq ∧ (s.learnAt role backward).cg = s.cg ∧ (s.learnAt role backward).ob = s.ob ∧
    (s.learnAt role backward).lc = s.lc ∧ (s.learnAt role backward).hp = s.hp ∧
    (s.learnAt role backward).counters = s.counters ∧ (s.learnAt role backward).trig0 = s.trig0 ∧
    (s.learnAt role backward).trig1 = s.trig1 ∧ (s.learnAt role backward).ticks = s.ticks ∧
    (s.learnAt role backward).choices = s.choices ∧ (s.learnAt role backward).pending = s.pending := by
  unfold State.learnAt; constructorm* _ ∧ _ <;> repeat' (first | simp | split)

@[simp] theorem State.finishOpening_frame (s : State) (o : Opening) :
    (s.finishOpening o).hold = s.hold ∧ (s.finishOpening o).st = s.st ∧ (s.finishOpening o).cg = s.cg ∧
    (s.finishOpening o).hp = s.hp ∧ (s.finishOpening o).trig0 = s.trig0 ∧ (s.finishOpening o).trig1 = s.trig1 ∧
    (s.finishOpening o).ticks = s.ticks ∧ (s.finishOpening o).pending = s.pending := by
  unfold State.finishOpening; constructorm* _ ∧ _ <;> repeat' (first | (simp; done) | split)

@[simp] theorem State.endShape_frame (s : State) (o : Opening) (shape : Byte) :
    (s.endShape o shape).hold = s.hold ∧ (s.endShape o shape).hp = s.hp ∧ (s.endShape o shape).trig0 = s.trig0 ∧
    (s.endShape o shape).trig1 = s.trig1 ∧ (s.endShape o shape).ticks = s.ticks ∧
    (s.endShape o shape).pending = s.pending := by
  unfold State.endShape; constructorm* _ ∧ _ <;> repeat' (first | (simp; done) | split)

@[simp] theorem State.listenAgain_frame (s : State) :
    (s.listenAgain).sc = s.sc ∧ (s.listenAgain).hold = s.hold ∧ (s.listenAgain).st = s.st ∧
    (s.listenAgain).slot = s.slot ∧ (s.listenAgain).cq = s.cq ∧ (s.listenAgain).cg = s.cg ∧
    (s.listenAgain).ob = s.ob ∧ (s.listenAgain).fb = s.fb ∧ (s.listenAgain).lc = s.lc ∧ (s.listenAgain).hp = s.hp ∧
    (s.listenAgain).ev = s.ev ∧ (s.listenAgain).trig0 = s.trig0 ∧ (s.listenAgain).trig1 = s.trig1 ∧
    (s.listenAgain).ticks = s.ticks ∧ (s.listenAgain).choices = s.choices ∧ (s.listenAgain).pending = s.pending := by
  simp [State.listenAgain]

@[simp] theorem State.damageOpening_frame (s : State) :
    (s.damageOpening).sc = s.sc ∧ (s.damageOpening).hold = s.hold ∧ (s.damageOpening).st = s.st ∧
    (s.damageOpening).slot = s.slot ∧ (s.damageOpening).cq = s.cq ∧ (s.damageOpening).cg = s.cg ∧
    (s.damageOpening).ob = s.ob ∧ (s.damageOpening).fb = s.fb ∧ (s.damageOpening).lc = s.lc ∧
    (s.damageOpening).hp = s.hp ∧ (s.damageOpening).ev = s.ev ∧ (s.damageOpening).trig0 = s.trig0 ∧
    (s.damageOpening).trig1 = s.trig1 ∧ (s.damageOpening).ticks = s.ticks ∧ (s.damageOpening).choices = s.choices ∧
    (s.damageOpening).pending = s.pending := by
  unfold State.damageOpening; constructorm* _ ∧ _ <;> repeat' (first | (simp; done) | split)

@[simp] theorem State.strayPulse_frame (s : State) (run : Nat) :
    (s.strayPulse run).hold = s.hold ∧ (s.strayPulse run).cg = s.cg ∧ (s.strayPulse run).hp = s.hp ∧
    (s.strayPulse run).counters = s.counters ∧ (s.strayPulse run).trig0 = s.trig0 ∧
    (s.strayPulse run).trig1 = s.trig1 ∧ (s.strayPulse run).ticks = s.ticks ∧ (s.strayPulse run).choices = s.choices ∧
    (s.strayPulse run).pending = s.pending := by
  simp [State.strayPulse]

@[simp] theorem State.recognizePulse_frame (s : State) (run : Nat) (inWindow : Bool) :
    (s.recognizePulse run inWindow).hold = s.hold ∧ (s.recognizePulse run inWindow).cg = s.cg ∧
    (s.recognizePulse run inWindow).hp = s.hp ∧ (s.recognizePulse run inWindow).counters = s.counters ∧
    (s.recognizePulse run inWindow).trig0 = s.trig0 ∧ (s.recognizePulse run inWindow).trig1 = s.trig1 ∧
    (s.recognizePulse run inWindow).ticks = s.ticks ∧ (s.recognizePulse run inWindow).choices = s.choices ∧
    (s.recognizePulse run inWindow).pending = s.pending := by
  unfold State.recognizePulse; constructorm* _ ∧ _ <;> repeat' (first | (simp; done) | split)

@[simp] theorem State.beginSlot_frame (s : State) (slot : Nat) :
    (s.beginSlot slot).sc = s.sc ∧ (s.beginSlot slot).hold = s.hold ∧ (s.beginSlot slot).hp = s.hp ∧
    (s.beginSlot slot).counters = s.counters ∧ (s.beginSlot slot).trig0 = s.trig0 ∧
    (s.beginSlot slot).trig1 = s.trig1 ∧ (s.beginSlot slot).ticks = s.ticks ∧ (s.beginSlot slot).pending = s.pending := by
  unfold State.beginSlot State.slotWork State.claimPolicy; constructorm* _ ∧ _ <;> repeat' (first | (simp; done) | split | simp)

@[simp] theorem State.endSlot_frame (s : State) (slot : Nat) (late : Option (List Byte)) :
    (s.endSlot slot late).hold = s.hold ∧ (s.endSlot slot late).cq = s.cq ∧ (s.endSlot slot late).cg = s.cg ∧
    (s.endSlot slot late).hp = s.hp ∧ (s.endSlot slot late).counters = s.counters ∧
    (s.endSlot slot late).trig0 = s.trig0 ∧ (s.endSlot slot late).trig1 = s.trig1 ∧
    (s.endSlot slot late).ticks = s.ticks ∧ (s.endSlot slot late).pending = s.pending := by
  unfold State.endSlot; constructorm* _ ∧ _ <;> repeat' (first | (simp; done) | split)

@[simp] theorem State.frameDone_frame (s : State) (slot : Nat) (f : TxFrame) :
    (s.frameDone slot f).hold = s.hold ∧ (s.frameDone slot f).ct = s.ct ∧ (s.frameDone slot f).cg = s.cg ∧
    (s.frameDone slot f).hp = s.hp ∧ (s.frameDone slot f).counters = s.counters ∧
    (s.frameDone slot f).trig0 = s.trig0 ∧ (s.frameDone slot f).trig1 = s.trig1 ∧
    (s.frameDone slot f).ticks = s.ticks ∧ (s.frameDone slot f).choices = s.choices ∧
    (s.frameDone slot f).pending = s.pending := by
  unfold State.frameDone; dsimp only; split <;> simp [foldl_keeps]

@[simp] theorem State.frameBroken_frame (s : State) (slot : Nat) (f : TxFrame) :
    (s.frameBroken slot f).sc = s.sc ∧ (s.frameBroken slot f).hold = s.hold ∧ (s.frameBroken slot f).ct = s.ct ∧
    (s.frameBroken slot f).cq = s.cq ∧ (s.frameBroken slot f).cg = s.cg ∧ (s.frameBroken slot f).hp = s.hp ∧
    (s.frameBroken slot f).trig0 = s.trig0 ∧ (s.frameBroken slot f).trig1 = s.trig1 ∧
    (s.frameBroken slot f).ticks = s.ticks ∧ (s.frameBroken slot f).choices = s.choices ∧
    (s.frameBroken slot f).pending = s.pending := by
  unfold State.frameBroken; dsimp only; split <;> simp

@[simp] theorem State.frameBeaten_frame (s : State) (slot : Nat) (f : TxFrame) :
    (s.frameBeaten slot f).hold = s.hold ∧ (s.frameBeaten slot f).ct = s.ct ∧ (s.frameBeaten slot f).cq = s.cq ∧
    (s.frameBeaten slot f).cg = s.cg ∧ (s.frameBeaten slot f).hp = s.hp ∧
    (s.frameBeaten slot f).counters = s.counters ∧ (s.frameBeaten slot f).trig0 = s.trig0 ∧
    (s.frameBeaten slot f).trig1 = s.trig1 ∧ (s.frameBeaten slot f).ticks = s.ticks ∧
    (s.frameBeaten slot f).choices = s.choices ∧ (s.frameBeaten slot f).pending = s.pending := by
  simp [State.frameBeaten]

@[simp] theorem State.respond_frame (s : State) (code : Byte) (status : Status) (data : List Byte) :
    (s.respond code status data).sc = s.sc ∧ (s.respond code status data).hold = s.hold ∧
    (s.respond code status data).ct = s.ct ∧ (s.respond code status data).st = s.st ∧
    (s.respond code status data).slot = s.slot ∧ (s.respond code status data).cq = s.cq ∧
    (s.respond code status data).cg = s.cg ∧ (s.respond code status data).ob = s.ob ∧
    (s.respond code status data).fb = s.fb ∧ (s.respond code status data).lc = s.lc ∧
    (s.respond code status data).ev = s.ev ∧ (s.respond code status data).counters = s.counters ∧
    (s.respond code status data).trig0 = s.trig0 ∧ (s.respond code status data).trig1 = s.trig1 ∧
    (s.respond code status data).ticks = s.ticks ∧ (s.respond code status data).choices = s.choices ∧
    (s.respond code status data).pending = s.pending := by
  simp [State.respond]

@[simp] theorem State.samplePins_frame (s : State) (a b : Level) :
    (s.samplePins a b).sc = s.sc ∧ (s.samplePins a b).hold = s.hold ∧ (s.samplePins a b).ct = s.ct ∧
    (s.samplePins a b).st = s.st ∧ (s.samplePins a b).slot = s.slot ∧ (s.samplePins a b).cq = s.cq ∧
    (s.samplePins a b).cg = s.cg ∧ (s.samplePins a b).ob = s.ob ∧ (s.samplePins a b).fb = s.fb ∧
    (s.samplePins a b).lc = s.lc ∧ (s.samplePins a b).hp = s.hp ∧ (s.samplePins a b).ev = s.ev ∧
    (s.samplePins a b).counters = s.counters ∧ (s.samplePins a b).ticks = s.ticks ∧
    (s.samplePins a b).choices = s.choices ∧ (s.samplePins a b).pending = s.pending := by
  simp [State.samplePins]

@[simp] theorem State.configureWith_frame (s : State) (im : Image) :
    (s.configureWith im).hold = s.hold ∧ (s.configureWith im).ct = s.ct ∧ (s.configureWith im).st = s.st ∧
    (s.configureWith im).slot = s.slot ∧ (s.configureWith im).ob = s.ob ∧ (s.configureWith im).fb = s.fb ∧
    (s.configureWith im).lc = s.lc ∧ (s.configureWith im).hp = s.hp ∧ (s.configureWith im).counters = s.counters ∧
    (s.configureWith im).trig0 = s.trig0 ∧ (s.configureWith im).trig1 = s.trig1 ∧
    (s.configureWith im).ticks = s.ticks ∧ (s.configureWith im).choices = s.choices ∧
    (s.configureWith im).pending = s.pending := by
  simp [State.configureWith]

@[simp] theorem State.startUp_frame (s : State) (im : Image) :
    (s.startUp im).hold = s.hold ∧ (s.startUp im).slot = s.slot ∧ (s.startUp im).cq = s.cq ∧
    (s.startUp im).cg = s.cg ∧ (s.startUp im).ob = s.ob ∧ (s.startUp im).lc = s.lc ∧ (s.startUp im).hp = s.hp ∧
    (s.startUp im).counters = s.counters ∧ (s.startUp im).trig0 = s.trig0 ∧ (s.startUp im).trig1 = s.trig1 ∧
    (s.startUp im).ticks = s.ticks ∧ (s.startUp im).choices = s.choices ∧ (s.startUp im).pending = s.pending := by
  simp [State.startUp]

@[simp] theorem State.leaveLine_frame (s : State) :
    (s.leaveLine).hold = s.hold ∧ (s.leaveLine).ct = s.ct ∧ (s.leaveLine).st = s.st ∧ (s.leaveLine).slot = s.slot ∧
    (s.leaveLine).cq = s.cq ∧ (s.leaveLine).cg = s.cg ∧ (s.leaveLine).lc = s.lc ∧ (s.leaveLine).hp = s.hp ∧
    (s.leaveLine).counters = s.counters ∧ (s.leaveLine).trig0 = s.trig0 ∧ (s.leaveLine).trig1 = s.trig1 ∧
    (s.leaveLine).ticks = s.ticks ∧ (s.leaveLine).choices = s.choices ∧ (s.leaveLine).pending = s.pending := by
  simp [State.leaveLine]

@[simp] theorem State.cancelSent_frame (s : State) (n : Serial) :
    (s.cancelSent n).sc = s.sc ∧ (s.cancelSent n).hold = s.hold ∧ (s.cancelSent n).ct = s.ct ∧
    (s.cancelSent n).st = s.st ∧ (s.cancelSent n).slot = s.slot ∧ (s.cancelSent n).cg = s.cg ∧
    (s.cancelSent n).fb = s.fb ∧ (s.cancelSent n).lc = s.lc ∧ (s.cancelSent n).hp = s.hp ∧
    (s.cancelSent n).ev = s.ev ∧ (s.cancelSent n).counters = s.counters ∧ (s.cancelSent n).trig0 = s.trig0 ∧
    (s.cancelSent n).trig1 = s.trig1 ∧ (s.cancelSent n).ticks = s.ticks ∧ (s.cancelSent n).choices = s.choices ∧
    (s.cancelSent n).pending = s.pending := by
  unfold State.cancelSent; dsimp only; constructorm* _ ∧ _ <;> split <;> simp

@[simp] theorem State.setTrigger_frame (s : State) (i : TrigInput) (t : TriggerState) :
    (s.setTrigger i t).sc = s.sc ∧ (s.setTrigger i t).hold = s.hold ∧ (s.setTrigger i t).ct = s.ct ∧
    (s.setTrigger i t).st = s.st ∧ (s.setTrigger i t).slot = s.slot ∧ (s.setTrigger i t).cq = s.cq ∧
    (s.setTrigger i t).cg = s.cg ∧ (s.setTrigger i t).ob = s.ob ∧ (s.setTrigger i t).fb = s.fb ∧
    (s.setTrigger i t).lc = s.lc ∧ (s.setTrigger i t).hp = s.hp ∧ (s.setTrigger i t).ev = s.ev ∧
    (s.setTrigger i t).counters = s.counters ∧ (s.setTrigger i t).ticks = s.ticks ∧
    (s.setTrigger i t).choices = s.choices ∧ (s.setTrigger i t).pending = s.pending := by
  cases i <;> simp [State.setTrigger]

@[simp] theorem State.present_frame (s : State) (i : TrigInput) (edge : Edge) (t : CueTemplate) :
    (s.present i edge t).sc = s.sc ∧ (s.present i edge t).hold = s.hold ∧ (s.present i edge t).ct = s.ct ∧
    (s.present i edge t).st = s.st ∧ (s.present i edge t).slot = s.slot ∧ (s.present i edge t).cq = s.cq ∧
    (s.present i edge t).cg = s.cg ∧ (s.present i edge t).fb = s.fb ∧ (s.present i edge t).lc = s.lc ∧
    (s.present i edge t).hp = s.hp ∧ (s.present i edge t).counters = s.counters ∧
    (s.present i edge t).ticks = s.ticks ∧ (s.present i edge t).choices = s.choices ∧
    (s.present i edge t).pending = s.pending := by
  unfold State.present; constructorm* _ ∧ _ <;> split <;> simp

@[simp] theorem State.edge_frame (s : State) (i : TrigInput) :
    (s.edge i).sc = s.sc ∧ (s.edge i).hold = s.hold ∧ (s.edge i).ct = s.ct ∧ (s.edge i).st = s.st ∧
    (s.edge i).slot = s.slot ∧ (s.edge i).cq = s.cq ∧ (s.edge i).cg = s.cg ∧ (s.edge i).fb = s.fb ∧
    (s.edge i).lc = s.lc ∧ (s.edge i).hp = s.hp ∧ (s.edge i).counters = s.counters ∧ (s.edge i).ticks = s.ticks ∧
    (s.edge i).choices = s.choices ∧ (s.edge i).pending = s.pending := by
  unfold State.edge; constructorm* _ ∧ _ <;> repeat' (first | (simp; done) | split | simp)

@[simp] theorem State.tick_frame (s : State) :
    (s.tick).sc = s.sc ∧ (s.tick).hold = s.hold ∧ (s.tick).st = s.st ∧ (s.tick).slot = s.slot ∧ (s.tick).cq = s.cq ∧
    (s.tick).cg = s.cg ∧ (s.tick).ob = s.ob ∧ (s.tick).fb = s.fb ∧ (s.tick).hp = s.hp ∧ (s.tick).ev = s.ev ∧
    (s.tick).counters = s.counters ∧ (s.tick).trig0 = s.trig0 ∧ (s.tick).trig1 = s.trig1 ∧
    (s.tick).choices = s.choices ∧ (s.tick).pending = s.pending := by
  simp [State.tick]

end Sys2Proof.Machine
end

