-- ==== Sys2Proof/Laws/Operations.lean ====
section
/-! SUPPORT. What the shared operations do, said once each: the host port's SEL rise, the event queue's offer, the merging of two blocks' records, the sweep of the outbox, the eight channels, the slot table and the retired list. -/

namespace Sys2Proof.Machine

/-! ## The host port -/

@[simp] theorem State.clockedIn_frame (s : State) (bs : List Byte) (tail : List Bool) :
    (s.clockedIn bs tail).sc = s.sc ∧ (s.clockedIn bs tail).hold = s.hold ∧ (s.clockedIn bs tail).ct = s.ct ∧
    (s.clockedIn bs tail).st = s.st ∧ (s.clockedIn bs tail).slot = s.slot ∧ (s.clockedIn bs tail).cq = s.cq ∧
    (s.clockedIn bs tail).cg = s.cg ∧ (s.clockedIn bs tail).ob = s.ob ∧ (s.clockedIn bs tail).fb = s.fb ∧
    (s.clockedIn bs tail).lc = s.lc ∧ (s.clockedIn bs tail).ev = s.ev ∧
    (s.clockedIn bs tail).counters = s.counters ∧ (s.clockedIn bs tail).trig0 = s.trig0 ∧
    (s.clockedIn bs tail).trig1 = s.trig1 ∧ (s.clockedIn bs tail).ticks = s.ticks ∧
    (s.clockedIn bs tail).choices = s.choices ∧ (s.clockedIn bs tail).pending = s.pending :=
  ⟨rfl, rfl, rfl, rfl, rfl, rfl, rfl, rfl, rfl, rfl, rfl, rfl, rfl, rfl, rfl, rfl, rfl⟩

/-- A response written is the state answered. -/
theorem State.respond_eq_answered (s : State) (code : Byte) (status : Status) (data : List Byte) :
    s.respond code status data = s.answered code status data := rfl

/-- R160, R161: a SEL rise on an OPEN transaction takes the command on the state as clocked in. -/
theorem State.selRise_serving {s : State} (h : s.Serving) (bs : List Byte) (tail : List Bool) (taken : State → State) :
    s.selRise bs tail taken = taken (s.clockedIn bs tail) := by
  simp [State.selRise, h.1, h.2]; rfl

/-- R161: a command on an OPEN transaction is answered SHORT, or taken on the state as clocked in. -/
theorem State.command_serving {s : State} (h : s.Serving) (code : Byte) (expected : Nat) (rest : List Byte)
    (tail : List Bool) (taken : State → State) :
    s.command code expected rest tail taken =
      if rest.length + 1 < expected then
        (s.clockedIn (code :: rest) tail).answered code .short (be2 (rest.length + 1) ++ be2 expected)
      else taken (s.clockedIn (code :: rest) tail) := by
  unfold State.command; rw [State.selRise_serving h]; rfl

/-- R164: a gated command of a configured station is taken. -/
theorem State.gated_configured {s : State} (h : s.sc.image.isSome = true) (code : Byte) (taken : State → State) :
    s.gated code taken = taken s := by
  simp [State.gated, Option.isSome_iff_ne_none.1 h]

/-- R164: a gated command of a station with no image is refused. -/
theorem State.gated_unconfigured {s : State} (h : s.sc.image = none) (code : Byte) (taken : State → State) :
    s.gated code taken = s.answered code .notConfigured [] := by
  simp [State.gated, h, State.respond_eq_answered]

/-! ## The event queue -/

/-- R177: an offer to a queue with room. -/
theorem EventQueue.offer_room {q : EventQueue} (h : q.records.length < 32) (r : EventRecord) :
    (q.offer r).records = q.records ++ [r] ∧ (q.offer r).lost = q.lost := by
  simp [EventQueue.offer, h, EventQueue.evaluate]

/-- R177: an offer to a full queue counts the record as lost and changes nothing else. -/
theorem EventQueue.offer_full {q : EventQueue} (h : 32 ≤ q.records.length) (r : EventRecord) :
    q.offer r = { q with lost := min 255 (q.lost + 1) } := by
  simp [EventQueue.offer, Nat.not_lt.2 h]

@[simp] theorem EventQueue.offer_frame (q : EventQueue) (r : EventRecord) :
    (q.offer r).watermark = q.watermark ∧ (q.offer r).urgent = q.urgent ∧
    (q.offer r).reportFiring = q.reportFiring := by
  unfold EventQueue.offer; split <;> simp [EventQueue.evaluate]

@[simp] theorem EventQueue.offers_nil (q : EventQueue) : q.offers [] = q := rfl

@[simp] theorem EventQueue.offers_cons (q : EventQueue) (r : EventRecord) (rs : List EventRecord) :
    q.offers (r :: rs) = (q.offer r).offers rs := rfl

theorem EventQueue.offers_append (q : EventQueue) (rs ts : List EventRecord) :
    q.offers (rs ++ ts) = (q.offers rs).offers ts := by
  simp [EventQueue.offers, List.foldl_append]

@[simp] theorem State.offers_nil (s : State) : s.offers [] = s := rfl

/-- R177: the merging of two blocks' records keeps each block's order and loses none. -/
theorem riffle_interleaves (fuel n : Nat) (xs ys : List EventRecord) : Interleaves (riffle fuel n xs ys) xs ys := by
  induction fuel generalizing n xs ys with
  | zero => exact ⟨.refl _, List.sublist_append_left _ _, List.sublist_append_right _ _⟩
  | succ fuel ih =>
    match xs, ys with
    | [], ys => exact ⟨.refl _, List.nil_sublist _, .refl _⟩
    | x :: xs, [] => exact ⟨by simp [riffle], .refl _, List.nil_sublist _⟩
    | x :: xs, y :: ys =>
      unfold riffle
      split
      · obtain ⟨p, a, b⟩ := ih (n + 1) xs (y :: ys)
        exact ⟨p.cons x, a.cons_cons x, b.cons x⟩
      · obtain ⟨p, a, b⟩ := ih (n + 1) (x :: xs) ys
        exact ⟨(p.cons y).trans List.perm_middle.symm, a.cons y, b.cons_cons y⟩

/-- The records of two blocks are offered in some order that keeps each block's own. -/
theorem State.offersUnordered_spec (s : State) (xs ys : List EventRecord) :
    ∃ (zs : List EventRecord) (choices : Nat), Interleaves zs xs ys ∧
      s.offersUnordered xs ys = { s with ev := s.ev.offers zs, choices := choices } := by
  unfold State.offersUnordered
  split
  · exact ⟨xs ++ ys, s.choices, ⟨.refl _, List.sublist_append_left _ _, List.sublist_append_right _ _⟩, rfl⟩
  · exact ⟨_, _, riffle_interleaves _ _ _ _, rfl⟩

/-! ## The outbox -/

/-- The entries that a sweep leaves. -/
theorem sweep_fst (f : OutEntry → OutEntry × Option Outcome) (es : List OutEntry) :
    (sweep f es).1 = es.filterMap fun e => if (f e).2.isNone then some (f e).1 else none := by
  induction es with
  | nil => rfl
  | cons e es ih =>
    rcases h : f e with ⟨e1, _ | o⟩ <;> simp [sweep, h, ih]

/-- The COVERAGE records of a sweep. -/
theorem sweep_snd (f : OutEntry → OutEntry × Option Outcome) (es : List OutEntry) :
    (sweep f es).2 = es.filterMap fun e => (f e).2.map (f e).1.coverage := by
  induction es with
  | nil => rfl
  | cons e es ih =>
    rcases h : f e with ⟨e1, _ | o⟩ <;> simp [sweep, h, ih]

/-- What a sweep does to the state: the entries left and their COVERAGE records, both in order of creation. -/
theorem State.sweepOutbox_eq (s : State) (f : OutEntry → OutEntry × Option Outcome) :
    s.sweepOutbox f = { s with
      ob := { s.ob with entries := s.ob.entries.filterMap fun e => if (f e).2.isNone then some (f e).1 else none }
      ev := s.ev.offers (s.ob.entries.filterMap fun e => (f e).2.map (f e).1.coverage) } := by
  simp only [State.sweepOutbox, State.offers, sweep_fst, sweep_snd]

/-- R95: an entry that the failed frame carried. -/
theorem OutEntry.takenBack_carried {e : OutEntry} {items : List TxItem} (talking : Bool) (o : Outbox)
    (h : items.any (TxItem.carries e.cueKind e.serial) = true) : e.takenBack talking o items = e.fail talking := by
  simp only [OutEntry.takenBack, h, if_true]

/-- R89, R95: an entry that the failed frame did not carry closes when it is the CANCEL entry of a withdraw-pending cue
that the frame carried on its first send, and else stays. -/
theorem OutEntry.takenBack_other {e : OutEntry} {items : List TxItem} (talking : Bool) (o : Outbox)
    (h : items.any (TxItem.carries e.cueKind e.serial) = false) :
    e.takenBack talking o items =
      if e.isCue = false ∧ items.any (TxItem.carries .cue e.serial) = true ∧
        (∃ c ∈ o.entries, c.named .cue e.serial = true ∧ c.state = .sending ∧ c.send = none ∧ c.withdrawPending = true)
      then (e, some .withdrawn) else (e, none) := by
  unfold OutEntry.takenBack
  rw [h, if_neg Bool.false_ne_true]
  refine if_congr ?_ rfl rfl
  simp only [Bool.and_eq_true, Bool.not_eq_true', List.any_eq_true, beq_iff_eq, Option.isNone_iff_eq_none, and_assoc]

/-- A sweep that closes nothing changes each entry in place. -/
theorem sweep_map {f : OutEntry → OutEntry × Option Outcome} {es : List OutEntry} (h : ∀ e ∈ es, (f e).2 = none) :
    sweep f es = (es.map fun e => (f e).1, []) := by
  induction es with
  | nil => rfl
  | cons e es ih =>
    rcases hf : f e with ⟨e1, _ | o⟩
    · simp [sweep, hf, ih fun x hx => h x (List.mem_cons_of_mem _ hx)]
    · have := h e List.mem_cons_self; simp [hf] at this

/-! ## The eight channels -/

@[simp] theorem PerChannel.get_set {α : Type} (p : PerChannel α) (c d : Channel) (a : α) :
    (p.set c a).get d = if d = c then a else p.get d := by
  match c with
  | 0 | 1 | 2 | 3 | 4 | 5 | 6 | 7 => match d with
    | 0 | 1 | 2 | 3 | 4 | 5 | 6 | 7 => rfl

@[simp] theorem PerChannel.get_map {α β : Type} (f : α → β) (p : PerChannel α) (c : Channel) :
    (p.map f).get c = f (p.get c) := by
  match c with
  | 0 | 1 | 2 | 3 | 4 | 5 | 6 | 7 => rfl

@[simp] theorem PerChannel.get_zipWith {α β γ : Type} (f : α → β → γ) (p : PerChannel α) (q : PerChannel β)
    (c : Channel) : (p.zipWith f q).get c = f (p.get c) (q.get c) := by
  match c with
  | 0 | 1 | 2 | 3 | 4 | 5 | 6 | 7 => rfl

@[simp] theorem PerChannel.get_all {α : Type} (a : α) (c : Channel) : (PerChannel.all a).get c = a := by
  match c with
  | 0 | 1 | 2 | 3 | 4 | 5 | 6 | 7 => rfl

/-! ## The slot table -/

/-- R19: the entry of a slot after one entry is replaced. -/
theorem SlotTable.entry_put (t : SlotTable) (slot k : Nat) (e : SlotEntry) :
    (t.put slot e).entry k =
      if k = slot ∧ 1 ≤ slot ∧ slot ≤ t.entries.length then some e else t.entry k := by
  by_cases hs : slot = 0
  · subst hs; simp [SlotTable.put]
  · by_cases hk : k = 0
    · subst hk; simp [SlotTable.entry]; omega
    · simp only [SlotTable.put, SlotTable.entry, hs, hk, if_false, List.getElem?_set]
      by_cases h : k = slot
      · subst h
        by_cases hl : k ≤ t.entries.length
        · simp [hl, show k - 1 < t.entries.length by omega, show 1 ≤ k by omega]
        · simp [hl, show ¬k - 1 < t.entries.length by omega]
      · simp [h, show ¬slot - 1 = k - 1 by omega]

@[simp] theorem SlotTable.put_roster (t : SlotTable) (slot : Nat) (e : SlotEntry) :
    (t.put slot e).roster = t.roster ∧ (t.put slot e).reportArmed = t.reportArmed ∧
    (t.put slot e).entries.length = t.entries.length := by
  unfold SlotTable.put; split <;> simp

/-- R19, R35: which slots a listing of the table holds. -/
theorem mem_slotsWhere (p : SlotView → Bool) (first : Nat) (es : List SlotEntry) (k : Nat) :
    k ∈ slotsWhere p first es ↔ ∃ e, first ≤ k ∧ es[k - first]? = some e ∧ p e.view = true := by
  induction es generalizing first with
  | nil => simp [slotsWhere]
  | cons e es ih =>
    have step : k ∈ slotsWhere p (first + 1) es ↔ ∃ x, first + 1 ≤ k ∧ (e :: es)[k - first]? = some x ∧ p x.view = true := by
      rw [ih (first + 1)]
      constructor
      · rintro ⟨x, h, hx, hp⟩
        exact ⟨x, h, by rw [show k - first = (k - (first + 1)) + 1 by omega]; simpa using hx, hp⟩
      · rintro ⟨x, h, hx, hp⟩
        rw [show k - first = (k - (first + 1)) + 1 by omega] at hx
        exact ⟨x, h, by simpa using hx, hp⟩
    have later : ∀ x, first ≤ k → (e :: es)[k - first]? = some x → k ≠ first → first + 1 ≤ k := by omega
    unfold slotsWhere
    split
    · rename_i hp
      rw [List.mem_cons, step]
      constructor
      · rintro (rfl | ⟨x, h, hx, hpx⟩)
        · exact ⟨e, le_rfl, by simp, hp⟩
        · exact ⟨x, by omega, hx, hpx⟩
      · rintro ⟨x, h, hx, hpx⟩
        by_cases hk : k = first
        · exact .inl hk
        · exact .inr ⟨x, later x h hx hk, hx, hpx⟩
    · rename_i hp
      rw [step]
      constructor
      · rintro ⟨x, h, hx, hpx⟩
        exact ⟨x, by omega, hx, hpx⟩
      · rintro ⟨x, h, hx, hpx⟩
        by_cases hk : k = first
        · subst hk; simp at hx; subst hx; exact absurd hpx hp
        · exact ⟨x, later x h hx hk, hx, hpx⟩

/-! ## The retired list -/

/-- R45: retiring keeps the list within 32 entries. -/
theorem retire_length {list : List Retired} (h : list.length ≤ 32) (id : CueId) (reason : RetireReason) :
    (retire list id reason).length ≤ 32 := by
  have := List.length_filter_le (fun e : Retired => e.id != id) list
  unfold retire
  dsimp only
  split <;> simp <;> omega

/-- R45: what the list holds after an id is retired: the id itself, and only entries that it held before. -/
theorem mem_retire {list : List Retired} {id : CueId} {reason : RetireReason} {e : Retired}
    (h : e ∈ retire list id reason) : e = { id := id, reason := reason } ∨ (e ∈ list ∧ e.id ≠ id) := by
  unfold retire at h
  dsimp only at h
  rw [List.mem_append, List.mem_singleton] at h
  rcases h with h | h
  · have hf : e ∈ list.filter fun x => x.id != id := by
      split at h
      · exact List.mem_of_mem_drop h
      · exact h
    exact .inr (by simpa using hf)
  · exact .inl h

/-- R45: retiring keeps the ids distinct. -/
theorem retire_nodup {list : List Retired} (h : (list.map Retired.id).Nodup) (id : CueId) (reason : RetireReason) :
    ((retire list id reason).map Retired.id).Nodup := by
  have hf : ((list.filter fun e => e.id != id).map Retired.id).Nodup :=
    h.sublist (List.filter_sublist.map _)
  unfold retire
  dsimp only
  rw [List.map_append, List.nodup_append]
  refine ⟨?_, by simp, ?_⟩
  · split
    · exact hf.sublist ((List.drop_sublist _ _).map _)
    · exact hf
  · intro a ha b hb
    obtain ⟨e, he, rfl⟩ := List.mem_map.1 ha
    have hm : e ∈ list.filter fun x => x.id != id := by
      split at he
      · exact List.mem_of_mem_drop he
      · exact he
    have : e.id ≠ id := by simpa using (List.mem_filter.1 hm).2
    simp only [List.map_cons, List.map_nil, List.mem_singleton] at hb
    exact hb ▸ this

end Sys2Proof.Machine
end

