-- ==== Sys2Proof/Tests/Slice0.lean ====
section
/-! SUPPORT. Tests on small states: ill-formed terms refused, worked values of the manual, one step of each command, and for each statement a state and operands that meet its hypotheses. -/

namespace Sys2Proof.Tests

open Sys2Proof Sys2Proof.Machine

/-! ## WellFormed: an ill-formed term for each check -/

theorem test_wf_tail_of_eight_bits : wellFormed (.nop [] (List.replicate 8 true)) = false := by decide
theorem test_wf_tail_of_seven_bits : wellFormed (.nop [] (List.replicate 7 true)) = true := by decide
theorem test_wf_unknown_is_known : wellFormed (.unknownCommand 0x26 [] []) = false := by decide
theorem test_wf_unknown : wellFormed (.unknownCommand 0x27 [] []) = true := by decide
theorem test_wf_pulse_too_short : wellFormed (.openingPulse 10 false) = false := by decide
theorem test_wf_pulse_too_long : wellFormed (.openingPulse 40 false) = false := by decide
theorem test_wf_pulse_bounds : wellFormed (.openingPulse 11 true) = true ∧ wellFormed (.openingPulse 39 true) = true := by
  decide
theorem test_wf_frame_empty : wellFormed (.frameReceived [] false) = false := by decide
/-- R133: a framing error in the frame's first byte. -/
theorem test_wf_frame_broken_at_once : wellFormed (.frameReceived [] true) = true := by decide
theorem test_wf_claim_loss_too_late : wellFormed (.claimArbitrationLost [1, 2, 3, 4]) = false := by decide
theorem test_wf_frame_too_long : wellFormed (.frameReceived (List.replicate 102 0) false) = false := by decide
theorem test_wf_late_frame_whole : wellFormed (.slotEnds (some (List.replicate 101 0))) = false := by decide

/-! ## No word of the opcode table spells a command -/

theorem test_decode_none (nbits w : Nat) : decodeTableWord nbits w = none := rfl

/-! ## Values the manual works out -/

/-- R127, the note of section 7.3: the nine bytes 49 to 57 leave 10673 in the accumulator. -/
theorem test_crc_check_value : crc16 [49, 50, 51, 52, 53, 54, 55, 56, 57] = 10673#16 := by decide +kernel

/-- Section 11.2, the bytes of one slot frame: station 5, cycle 3300, one ACK to station 12 for serial 88, ACCEPTED. -/
theorem test_frame_bytes :
    (TxFrame.bytes { kind := .slot 9, cycleCheck := (3300#32).setWidth 8,
                     items := [.ack { originator := 12, serial := 88 } .accepted] } 5).take 7 =
      [0x05, 0xE4, 0x04, 0x03, 0x0C, 0x10, 0x58] := by decide

/-- R124: the ten levels of the byte 05h, dominant for 0, and what is read of them. -/
theorem test_line_bits :
    lineBits 0x05 = [true, true, true, true, true, true, false, true, false, false] ∧
      readByte [true, true, true, true, true, true, false, true, false, true] =
        some { value := 0x05, framing := true } ∧
      readByte (List.replicate 10 false) = none := by decide

/-- R6: proposal 1002 is sent complemented, most significant byte first. -/
theorem test_number_field : numberField 1002 = [0xFF, 0xFF, 0xFC, 0x15] := by decide

/-- R125: the table of outcomes. -/
theorem test_compare_bits :
    compareBit true true true = .sent ∧ compareBit false true true = .arbitrationLoss ∧
      compareBit true false true = .heldMismatch ∧ compareBit false true false = .bitError ∧
      compareBit true false false = .bitError := by decide

/-- The table of R1. -/
theorem test_nominal_cycles : nominalCycle 8 24 = 2560 ∧ nominalCycle 16 24 = 5040 ∧ nominalCycle 32 96 = 33040 := by
  decide

/-- The levels of a ramp at the advances 1 to n − 1. -/
def rampLevels (start target n : Byte) : List Nat :=
  (List.range (n.toNat - 1)).map fun k => (rampLevel start target n (BitVec.ofNat 8 (k + 1))).toNat

/-- The table of R72, but for the last level of each ramp, which is its target. -/
theorem test_ramp_table :
    rampLevels 200 50 4 = [163, 125, 88] ∧ rampLevels 0 255 3 = [85, 170] ∧
      rampLevels 10 13 8 = [10, 10, 11, 11, 11, 12, 12] := by decide

/-- Section 4.3, one channel over twelve slot beginnings: the two steps of the ramp, and the end of the pulse train. -/
theorem test_channel_example :
    (ChanState.advance^[2] (.ramp 120 120 40 4 0)).level = 80 ∧
      ChanState.advance^[2] (.pulse 180 2 3 2 .on 2) = .pulse 180 2 3 1 .off 3 ∧
      ChanState.advance^[7] (.pulse 180 2 3 2 .on 2) = .idle := by decide

/-- R80, R81: level 51 is 51/255 of a period of 1 ms, 200 µs. -/
theorem test_pwm_waveform :
    OutputLatch.pinHigh { level := 51, polarity := .activeHigh } 0 199999 = true ∧
      OutputLatch.pinHigh { level := 51, polarity := .activeHigh } 0 200000 = false ∧
      OutputLatch.pinHigh { level := 0, polarity := .activeLow } 2 0 = true := by decide

/-! ## A station to test on -/

/-- S = 16, P = 24, station 3, W = 1, K = 3, R = 1, D = 4, as in section 12.2; group 12 position 2 on channel 3. -/
def image : Image :=
  { station := 3, role := .talker, bitRate := 1, slots := .s16, payload := .p24, wanted := 1, silenceLimit := 3,
    retries := 1, window := 4, watermark := 8, urgent := 0x028200, reportFiring := true, pwmRate := 0,
    channels := .all .reset,
    subscriptions := [{ group := 12, pos0 := none, pos1 := none, pos2 := some 3, pos3 := none }] }

/-- Configured, with a transaction OPEN. -/
def configured : State :=
  { State.reset with
    sc := { State.reset.sc with image := some image }
    cq := { State.reset.cq with subscriptions := image.subscriptions }
    ev := { State.reset.ev with watermark := 8, reportFiring := true }
    hp := { State.reset.hp with transaction := .opened } }

/-- The slot table of section 12.2 before slot 10: this station holds slot 2, station 5 slot 4, station 11 slot 7. -/
def table : SlotTable :=
  { entries := [.free, { view := .held 3 0, failures := 0 }, .free, { view := .held 5 0, failures := 0 }, .free, .free,
                { view := .held 11 2, failures := 0 }, .free, .free, .free, .free, .free, .free, .free, .free]
    roster := [{ station := 5, joined := 500, lastHeard := 599 }, { station := 11, joined := 500, lastHeard := 598 }]
    reportArmed := true }

/-- On the line in a station state, in slot `slot` of cycle 600. -/
def onLine (state : StationState) (slot : Nat) : State :=
  { configured with
    sc := { configured.sc with state := state, talkIntent := true }
    ct := { phase := .slots, cycle := 600, history := .held, slotIndex := some slot, position := some (80 + slot * 310),
            role := .participant, proposal := none, listenWindow := none, opening := none }
    st := table
    ob := { entries := [], counter := 130 } }

/-- The RAMP of section 12.2: to 200 over 30 slots, group 12 position 2, due slot 5, lead 40. -/
def ramp : CueTemplate :=
  { contents := { group := 12, position := 2, action := .ramp 200 30, dueSlot := 5, replace := false }, lead := 40 }

/-- Its outbox entry. -/
def entry (state : OutState) (send : Option SendData) : OutEntry :=
  { serial := 130, kind := .cue ramp false, state := state, source := .host, send := send, selfVerdict := none }

/-- A CANCEL entry of the same serial. -/
def cancelEntry (state : OutState) (send : Option SendData) : OutEntry :=
  { serial := 130, kind := .cancel, state := state, source := .host, send := send, selfVerdict := none }

/-- The send data of section 12.2 after slot 2 of cycle 600, with no answer yet. -/
def sendData : SendData :=
  { attempts := 1, firstSend := 600, lastSend := 600, deadline := 604, expected := [5, 11], answers := [], departed := 0 }

def withEntries (s : State) (es : List OutEntry) : State := { s with ob := { s.ob with entries := es } }

def withOpening (s : State) (role : OpeningRole) (o : Opening) : State :=
  { s with ct := { s.ct with phase := .opening, slotIndex := none, position := some 12, role := role
                             proposal := if role = .participant then some (s.ct.cycle + 1) else none
                             listenWindow := none, opening := some o } }

def opening (stage : OpeningStage) (number slip : Cycle) (backward : Bool) : Opening :=
  { stage := stage, lost := false, numberDamaged := false, shapeDamaged := false, number := number, slip := slip,
    backward := backward }

/-- The state a command answers. -/
def after (r : Result) : State :=
  match r with
  | .next t => t
  | .fault f => nomatch f
  | .refused _ => State.reset

/-! ## One step of each command -/

theorem test_power_on_reset : (after (exec .powerOnReset (onLine .active 2))).sc.state = .config ∧
    (after (exec .powerOnReset (onLine .active 2))).ob.counter = 0 := by decide
theorem test_pin_reset_keeps_serial : (after (exec .pinReset (onLine .active 2))).ob.counter = 130 := by decide
theorem test_release_with_sel_low :
    (after (exec (.resetReleased .high .low true) (after (exec .pinReset (onLine .active 2))))).hp.transaction = .ignored := by
  decide
theorem test_transaction_open : (after (exec .transactionOpen State.reset)).hp.transaction = .opened := by decide
theorem test_empty_transaction : (after (exec (.emptyTransaction []) configured)).hp.sequence = 0 := by decide
theorem test_unknown_command : (after (exec (.unknownCommand 0x7F [] []) configured)).hp.response =
    { sequence := 1, code := 0x7F, status := .unknownCommand, data := [] } := by decide
theorem test_nop : (after (exec (.nop [] []) configured)).hp.response =
    { sequence := 1, code := 0, status := .ok, data := [] } := by decide
theorem test_get_status : ((after (exec (.getStatus [] []) (onLine .active 2))).hp.response.data).take 15 =
    [5, 0, 1, 3, 0, 0xFF, 0, 0, 2, 0x58, 2, 2, 0xFF, 0xFF, 0xFF] := by decide
theorem test_configure_short : (after (exec (.configure [] []) configured)).hp.response.data = [0, 1, 0, 33] := by decide
theorem test_start : (after (exec (.start [] []) configured)).ct.listenWindow = some 15120 := by decide
theorem test_leave_with_slot : (after (exec (.leave [] []) (onLine .active 4))).sc.state = .leaving := by decide
theorem test_join : (after (exec (.join [] []) (onLine .quiet 4))).sc.state = .claiming := by decide
theorem test_reset_command : (after (exec (.reset [] [] .high .low) (onLine .active 4))).hp.response =
    { sequence := 0, code := 0x0F, status := .ok, data := [2, 0, 130] } := by decide

/-- Section 12.2, SUBMIT_CUE taken: QUEUED with serial 130, counter 131. -/
theorem test_submit_cue :
    (after (exec (.submitCue [12, 2, 2, 200, 30, 0, 0, 5, 0, 40, 0] []) (onLine .active 1))).ob =
      { entries := [entry .queued none], counter := 131 } := by decide

theorem test_cancel_queued :
    (after (exec (.cancelCue [0, 130] []) (withEntries (onLine .active 1) [entry .queued none]))).hp.response.status =
      .withdrawn := by decide
theorem test_read_events_bad_count : (after (exec (.readEvents [5] []) configured)).hp.response.status = .badIndex := by
  decide
theorem test_read_slots : ((after (exec (.readSlots [] []) (onLine .active 2))).hp.response.data).take 12 =
    [1, 0, 15, 1, 0, 0xFF, 0, 0xFF, 0, 0, 0, 0] := by decide
theorem test_read_roster : (after (exec (.readRoster [] []) (onLine .active 2))).hp.response.data.take 14 =
    [2, 5, 0, 0, 0, 0x10, 0, 0, 1, 0xF4, 0, 0, 2, 0x57] := by decide
theorem test_read_queue_empty : (after (exec (.readQueue [0] []) configured)).hp.response.data = [0, 0] := by decide
theorem test_read_outbox_empty : (after (exec (.readOutbox [15] []) configured)).hp.response.data = [0] := by decide
theorem test_read_channel : (after (exec (.readChannel [7] []) configured)).hp.response.data =
    [7, 0, 0, 0, 0, 0, 0xFF, 0, 0, 0, 0, 0xFF, 0, 0, 0, 0, 0] := by decide
theorem test_read_counters :
    (after (exec (.readCounters [] []) { configured with counters := { Counters.zero with crcErrors := 300 } })).hp.response.data.take 3
      = [1, 44, 0] := by decide
theorem test_drive_set : (after (exec (.driveChannel [3, 1, 120, 0, 0, 0] []) configured)).cg.channels.c3 = .hold 120 := by
  decide
theorem test_bind_trigger : ((after (exec (.bindTrigger [1, 2, 12, 2, 4, 0, 0, 0, 0, 5, 0, 1, 1] []) configured)).trig1.binding.map
    Binding.edge) = some .both := by decide
theorem test_unbind_bad_index : (after (exec (.unbindTrigger [2] []) configured)).hp.response.status = .badIndex := by decide
theorem test_trigger_edge_unbound : (after (exec (.triggerEdge .trig0) configured)).trig0.level = .high := by decide
theorem test_pwm_period_start :
    (after (exec .pwmPeriodStart { configured with cg := { configured.cg with channels := configured.cg.channels.set 6 (.hold 9) } })).cg.outputs.c6.level
      = 9 := by decide
theorem test_listen_window_expiry :
    (after (exec .listenWindowExpiry (after (exec (.start [] []) configured)))).ct.proposal = some 0 := by decide
theorem test_opening_begins :
    (after (exec .openingBegins { onLine .active 15 with slot := { SlotReport.blank with judged := true } })).ct.proposal
      = some 601 := by decide
theorem test_deferred_opening_edge :
    (after (exec .deferredOpeningEdge { onLine .active 15 with slot := { SlotReport.blank with ended := true } })).counters.formatErrors
      = 1 := by decide
theorem test_pulse_release :
    (after (exec .openingPulseRelease (withOpening (onLine .active 15) .participant (opening .pulse 0 0 false)))).lc.dominantRun
      = 12 := by decide
/-- R128: a dominant run of 5 bit times that the window's end meets on the line goes on through the pulse and beyond it,
whether the pulse's bit times were counted or not; a number field with good framing ends it. -/
theorem test_pulse_run_goes_on :
    let started := after (exec .openingBegins { onLine .active 15 with
      slot := { SlotReport.blank with judged := true }, lc := { (onLine .active 15).lc with dominantRun := 5 } })
    let counted := { started with
      ct := { started.ct with position := some 12 }, lc := { started.lc with dominantRun := 17 } }
    started.lc.dominantRun = 5 ∧ (after (exec .openingPulseRelease started)).lc.dominantRun = 17 ∧
      (after (exec .openingPulseRelease counted)).lc.dominantRun = 17 ∧
      (after (exec (.numberFieldEnd (~~~601) false) (after (exec .openingPulseRelease counted)))).lc.dominantRun = 0 := by
  decide
theorem test_no_echo :
    (after (exec .noEcho (withOpening (onLine .active 15) .participant (opening .pulse 0 0 false)))).sc.faultReason
      = some .noEcho := by decide

/-- Section 12.4: the records of station 14 at a stray opening, in their order. -/
theorem test_stray_opening_records :
    (after (exec (.openingPulse 12 false) (withEntries { onLine .active 7 with ct := { (onLine .active 7).ct with cycle := 120 } }
      [entry .sent (some sendData)]))).ev.records.map EventRecord.kindCode = [1, 8, 12, 9] := by decide

/-- R7: proposal 601 meets 605: a slip of 4 cycles. -/
theorem test_number_field_slip :
    ((after (exec (.numberFieldEnd (~~~605#32) false)
      (withOpening (onLine .active 15) .participant (opening .number 0 0 false)))).ct.opening.map Opening.slip) = some 4 := by
  decide

/-- Section 12.3: CUE 131's deadline is reached at the opening that carries 704; here 604 closes CUE 130. -/
theorem test_opening_ends_at_deadline :
    (after (exec (.openingEnds image.shapeByte) (withOpening (withEntries (onLine .active 15) [entry .sent (some sendData)])
      .participant (opening .shape 604 0 false)))).ob.entries = [] := by decide
theorem test_opening_ends_shape_mismatch :
    (after (exec (.openingEnds 0) (withOpening (onLine .active 15) .participant (opening .shape 601 0 false)))).sc.state
      = .halted := by decide

/-- Section 12.1: in CLAIMING a station claims the lowest FREE slot. -/
theorem test_slot_zero_claims :
    (after (exec .slotBegins { onLine .claiming 0 with
      ct := { (onLine .claiming 0).ct with slotIndex := none }
      st := { table with entries := table.entries.set 1 .free } })).fb.transmission =
      some { kind := .claim 1, cycleCheck := 0x58, items := [] } := by decide

/-- Section 12.2: slot 2's frame is fixed with the CUE, twelve item bytes. -/
theorem test_slot_two_fixes_cue :
    ((after (exec .slotBegins { withEntries (onLine .active 1) [entry .queued none] with
      slot := { SlotReport.blank with judged := true } })).fb.transmission.map TxFrame.items) =
      some [.cue 130 false 40 ramp.contents] := by decide

/-- R27: station 11's silence reaches K = 3, its slot falls and it leaves the roster. -/
theorem test_slot_ends_lapsed :
    (after (exec (.slotEnds none) (onLine .active 7))).st.roster.map Peer.station = [5] := by decide

/-- Slot 2's frame on the line. -/
def sending (es : List OutEntry) (items : List TxItem) : State :=
  { withEntries (onLine .active 2) es with
    fb := { staging := [], transmission := some { kind := .slot 2, cycleCheck := 0x58, items := items } } }

/-- Slot 0's claim frame on the line. -/
def claimSending : State :=
  { onLine .claiming 0 with
    fb := { staging := [], transmission := some { kind := .claim 3, cycleCheck := 0x58, items := [] } } }

/-- Section 12.2, slot 2 completes: due (640, 5), deadline 604, self verdict ACCEPTED. -/
theorem test_frame_completes :
    ((after (exec .frameCompletes (sending [entry .sending none] [.cue 130 false 40 ramp.contents]))).ob.entries.map
      fun e => (e.due, e.send.map SendData.deadline, e.selfVerdict)) =
      [(some (640, 5), some 604, some .accepted)] := by decide
theorem test_bit_error_counts :
    (after (exec .bitError (sending [] []))).st.failures 2 = 1 := by decide
theorem test_header_loss_displaces :
    (after (exec .headerArbitrationLost (sending [] []))).sc.state = .claiming := by decide
theorem test_claim_arbitration_lost :
    (after (exec (.claimArbitrationLost []) claimSending)).counters.claimLosses = 1 := by decide
/-- R132: the claim for slot 3 whose first byte stood on the line as 07h, a held mismatch, and lost in its second. -/
theorem test_claim_lost_after_mismatch :
    (after (exec (.claimArbitrationLost [0x07]) claimSending)).lc.reception =
      some { slot := 0, bytes := [0x07], expected := some 5, framing := false } := by decide
/-- The own frame of slot 2 on the line, with a lower number's header read in the guard and nine levels of its next byte. -/
def sendingLate : State :=
  { sending [] [] with lc := { LineController.reset with
      reading := some ((lineBits 0x58).take 9), crc := some 0xFFFF
      overheard := some { slot := 2, bytes := [2], expected := none, framing := false } } }

/-- R132: the record after the loss holds the winner's bytes from its first start edge, in the guard, on. -/
theorem test_header_loss_to_early_frame :
    (after (exec .headerArbitrationLost { sendingLate with lc := sendingLate.lineBit false })).lc.reception =
      some { slot := 2, bytes := [2, 0x58], expected := none, framing := false } := by decide
/-- R132: the record opened in the guard is kept while the own frame of slot 2 is sent. -/
theorem test_send_keeps_guard_record :
    (after (exec .slotBegins { withEntries (onLine .active 1) [] with
      slot := { SlotReport.blank with judged := true }
      lc := LineController.reset.receive 2 [2] })).lc.overheard =
      some { slot := 2, bytes := [2], expected := none, framing := false } := by decide
/-- R177: a CUE 130 older than the CANCEL 7 that stands before it in the frame closes first when the frame fails in
LEAVING. -/
theorem test_withdrawn_in_order_of_creation :
    (after (exec .bitError { sending [entry .sending none, { cancelEntry .sending none with serial := 7 }]
        [.cancel 7, .cue 130 false 40 ramp.contents] with
      sc := (onLine .leaving 2).sc })).ev.records.map EventRecord.bytes =
      [[9, 0, 2, 0, 0, 130, 0, 0, 0, 0, 0, 0, 0, 0, 0, 0], [9, 1, 2, 0, 0, 7, 0, 0, 0, 0, 0, 0, 0, 0, 0, 0]] := by decide
theorem test_claim_bit_error : (after (exec .claimBitError claimSending)).counters.ownFailures = 1 := by decide
theorem test_claim_completes : (after (exec .claimCompletes claimSending)).slot.own = .claimCompleted 3 := by decide

/-- Station 5's frame of slot 4 with an ACK of CUE 130. -/
def ackFrame : List Byte :=
  TxFrame.bytes { kind := .slot 4, cycleCheck := 0x58, items := [.ack { originator := 3, serial := 130 } .accepted] } 5

/-- Section 12.2, slot 4: station 5's ACK is taken. -/
theorem test_frame_received_ack :
    ((after (exec (.frameReceived ackFrame false) (withEntries (onLine .active 4) [entry .sent (some sendData)]))).ob.entries.map
      fun e => e.send.map SendData.answers) = [some [(5, .accepted)]] := by decide +kernel
theorem test_frame_received_bad_crc :
    (after (exec (.frameReceived (ackFrame.set 3 0) false) (onLine .active 4))).counters.crcErrors = 1 := by decide +kernel
theorem test_frame_cut_off :
    (after (exec .frameCutOff { onLine .active 4 with slot := { SlotReport.blank with ended := true } })).st.view 4 =
      .held 5 1 := by decide
theorem test_byte_gap : (after (exec .byteGap (onLine .active 4))).slot.finding = some .invalid := by decide
theorem test_gap_in_guard :
    ((after (exec .slotBegins (after (exec .byteGap
      { onLine .active 4 with slot := { SlotReport.blank with judged := true } })))).slot.finding,
      (after (exec .byteGap { onLine .active 4 with slot := { SlotReport.blank with judged := true } })).counters.formatErrors) =
      (some .invalid, 1) := by decide
theorem test_stray_traffic : (after (exec .strayTraffic (onLine .active 4))).counters.formatErrors = 1 := by decide
theorem test_stuck_line_records :
    (after (exec .stuckLine (onLine .active 4))).ev.records.map EventRecord.kindCode = [1, 15, 12] := by decide
theorem test_line_restored : (after (exec .lineRestored (onLine .lineFault 4))).sc.state = .listening := by decide
theorem test_ignored_transaction_end :
    (after (exec (.ignoredTransactionEnd [1] []) { configured with hp := { configured.hp with transaction := .ignored } })).hp.sequence
      = 0 := by decide
theorem test_falling_edge_restarts_run :
    (after (exec .fallingEdgeInLineFault { onLine .lineFault 4 with lc := { LineController.reset with recessiveRun := 63 } })).lc.recessiveRun
      = 0 := by decide
theorem test_number_field_loss :
    (after (exec .numberFieldArbitrationLoss
      (withOpening (onLine .active 15) .participant (opening .number 0 0 false)))).lc.drive = .released := by decide
theorem test_opening_framing_error_listening :
    (after (exec .openingFramingError (withOpening (onLine .listening 0) .observer (opening .number 0 0 false)))).ct.phase
      = .waiting := by decide

/-! ## A step -/

theorem test_step_takes_front :
    after (step { configured with pending := [.nop [] [], .noEcho] }) =
      { after (exec (.nop [] []) configured) with pending := [.noEcho] } := by decide

/-- Slot 2's empty frame in its first bit, the start bit of the byte 03h. -/
def firstBit : State :=
  { onLine .active 2 with
    fb := { staging := [], transmission := some { kind := .slot 2, cycleCheck := 0x58, items := [] } }
    lc := { LineController.reset with drive := .driving, sending := .slot, crc := some 0xFFFF } }

/-- The opening after cycle 600, just begun. -/
def opening15 : State :=
  after (exec .openingBegins { onLine .active 15 with slot := { SlotReport.blank with judged := true } })

/-- R125, R126: a start bit and the six 0 bits of 03h are dominant, its two 1 bits and the stop bit recessive. -/
theorem test_first_byte_on_the_line :
    (List.range 11).map (fun q => (firstBit.sentAt (700 + q)).map SentBit.dominant) =
      [some true, some true, some true, some true, some true, some true, some true, some false, some false, some false,
       some true] := by decide

/-- R125: the second bit is a dominant data bit of the arbitration field; read recessive, it is a held mismatch. -/
theorem test_held_mismatch :
    (State.lineBit { firstBit with ct := { firstBit.ct with position := some 701 } } false).heldMismatch = true ∧
      (State.lineBit { firstBit with ct := { firstBit.ct with position := some 700 } } false).heldMismatch = false := by
  decide

/-- R123, R125: slot 2's frame is in its arbitration field from bit 1 to bit 8; a station that has lost it has no standing
from bit 9 on. -/
theorem test_arbitration_standing :
    ([699, 700, 707, 708].map fun p =>
        (State.lineBit { firstBit with ct := { firstBit.ct with position := some p } } true).arbitration) =
      [.outside, .inside, .inside, .outside] ∧
    ([707, 708].map fun p =>
        (State.lineBit { onLine .active 2 with
          ct := { (onLine .active 2).ct with position := some p }
          lc := { LineController.reset with arbitration := .lost } } true).arbitration) = [.lost, .outside] := by decide

/-- R6, R123: the gap after the pulse, bit times 12 and 13, lies in no arbitration field; the number field does, from bit
time 14 to 53. -/
theorem test_number_field_standing :
    [12, 13, 14, 53, 54].map (State.inField (withOpening (onLine .active 15) .participant (opening .number 0 0 false))) =
      [false, false, true, true, false] := by decide

/-- R132: a falling edge in the guard before slot 5 begins its record; the same edge in slot 4 after 20 bit times does not. -/
theorem test_frame_start_tolerance :
    (State.lineBit { onLine .quiet 4 with slot := { SlotReport.blank with judged := true } } true).reception =
        some { slot := 5, bytes := [], expected := none, framing := false } ∧
      (State.lineBit { onLine .quiet 4 with ct := { (onLine .quiet 4).ct with position := some 1340 } } true).reception =
        some { slot := 4, bytes := [], expected := none, framing := false } ∧
      (State.lineBit { onLine .quiet 4 with ct := { (onLine .quiet 4).ct with position := some 1341 } } true).reception =
        none := by decide

/-- Slot 4's frame being received, nine levels of its third byte, 04h, sampled. -/
def hearing : State :=
  { onLine .quiet 4 with lc := { LineController.reset with
      reading := some ((lineBits 0x04).take 9), crc := some 0xFFFF
      reception := some { slot := 4, bytes := [5, 0x58], expected := none, framing := false } } }

/-- R133: the third byte tells the length, 3 + 4 + 2 bytes; with its stop bit dominant it has a framing error. -/
theorem test_third_byte_read :
    (hearing.lineBit false).reception = some { slot := 4, bytes := [5, 0x58, 4], expected := some 9, framing := false } ∧
      (hearing.lineBit true).reception = some { slot := 4, bytes := [5, 0x58], expected := none, framing := true } := by
  decide

/-! ## Witnesses: for each statement with hypotheses, a state and operands that meet them, clause by clause -/

theorem witness_StepRunsFrontCommand :
    { configured with pending := [.noEcho, .stuckLine] }.pending = .noEcho :: [.stuckLine] := rfl

theorem witness_EmptyQueuePassesBitTime :
    State.reset.pending = [] ∧ State.reset.sc.state = .config ∧ (onLine .halted 1).sc.state = .halted ∧
      (onLine .lineFault 1).sc.state = .lineFault ∧ firstBit.pending = [] ∧ firstBit.sc.state.onLine = true ∧
      (after (exec (.start [] []) configured)).sc.state.onLine = true ∧
      (after (exec (.start [] []) configured)).ct.position = none ∧
      (firstBit.ct.position = some 700 ∧ firstBit.sentAt 700 ≠ none ∧ firstBit.sentAt 701 ≠ none ∧
        firstBit.sentAt 750 = none ∧ firstBit.inField 701 = true ∧ firstBit.inField 750 = false ∧
        firstBit.lc.reception = none ∧ firstBit.fb.transmission ≠ none ∧
        firstBit.ct.slotIndex = some 2 ∧ firstBit.lc.sending = .slot) ∧
      (49 < 10 * (TxFrame.bytes { kind := .slot 2, cycleCheck := 0x58, items := [] } 3).length ∧
        10 * (TxFrame.bytes { kind := .slot 2, cycleCheck := 0x58, items := [] } 3).length ≤ 50) ∧
      ((List.replicate 8 true).length < 9 ∧ 9 ≤ (List.replicate 9 true).length) ∧
      ((onLine .quiet 4).frameStart = some 4 ∧ (onLine .quiet 4).lc.reading = none ∧
        (onLine .quiet 4).lc.dominantRun = 0) ∧
      (hearing.pending = [] ∧ hearing.sc.state.onLine = true ∧ hearing.lc.reading = some ((lineBits 0x04).take 9) ∧
        hearing.lc.reception = some { slot := 4, bytes := [5, 0x58], expected := none, framing := false } ∧
        overlong 4 hearing.payload [5, 0x58] = false ∧ (none : Option Nat) ≠ some [(5 : Byte), 0x58].length) ∧
      ((onLine .quiet 4).pending = [] ∧ (onLine .quiet 4).sc.state.onLine = true ∧ (onLine .quiet 4).fb.transmission = none) ∧
      (firstBit.lc.reading = none ∧ firstBit.lc.dominantRun = 0) ∧
      (sendingLate.pending = [] ∧ sendingLate.sc.state.onLine = true ∧ sendingLate.fb.transmission ≠ none ∧
        sendingLate.ct.slotIndex ≠ none ∧ sendingLate.lc.reading = some ((lineBits 0x58).take 9) ∧
        sendingLate.lc.overheard = some { slot := 2, bytes := [2], expected := none, framing := false } ∧
        overlong 2 sendingLate.payload [2] = false ∧ (none : Option Nat) ≠ some [(2 : Byte)].length) ∧
      (opening15.lc.sending = .opening ∧ opening15.ct.proposal = some 601 ∧ opening15.sc.image = some image ∧
        opening15.ct.phase = .opening ∧
        opening15.ct.opening.map Opening.stage = some .pulse ∧
        (after (exec .openingPulseRelease opening15)).lc.sending = .opening ∧
        (after (exec .openingPulseRelease opening15)).ct.opening.map Opening.stage = some .number ∧
        (after (exec (.numberFieldEnd (~~~601) false) (after (exec .openingPulseRelease opening15)))).lc.sending = .opening ∧
        (after (exec (.numberFieldEnd (~~~601) false) (after (exec .openingPulseRelease opening15)))).ct.opening.map
          Opening.stage = some .shape) := by decide

/-- A part that RESET_N holds. -/
def heldInReset : State := after (exec .pinReset configured)

theorem witness_ResetsReachResetValues :
    configured.held = false ∧ heldInReset.held = true ∧ (onLine .halted 1).Serving := by decide

theorem witness_TransactionsAndEarlyRefusals :
    (State.reset.held = false ∧ State.reset.hp.transaction = .idle) ∧ configured.Serving ∧
      commandCodes.contains (6#8).toNat = false ∧ commandCodes.contains (255#8).toNat = false ∧
      { configured with hp := { configured.hp with transaction := .ignored } }.held = false ∧
      (List.replicate 31 (0 : Byte)).length + 1 < 33 + 5 * announced (List.replicate 31 0) ∧
      (List.replicate 36 (1 : Byte)).length + 1 < 33 + 5 * announced (List.replicate 36 1) ∧
      (List.replicate 10 (0 : Byte)).length + 1 < 12 ∧ ([0] : List Byte).length + 1 < 3 ∧
      ([] : List Byte).length + 1 < 2 ∧ (List.replicate 5 (0 : Byte)).length + 1 < 7 ∧
      (List.replicate 12 (0 : Byte)).length + 1 < 14 ∧
      { configured with sc := State.reset.sc }.Serving ∧ State.reset.sc.image = none ∧
      2 ≤ ([0] : List Byte).length + 1 ∧ 7 ≤ (List.replicate 6 (0 : Byte)).length + 1 ∧
      14 ≤ (List.replicate 13 (0 : Byte)).length + 1 := by decide

theorem witness_ReadsReturnAndTake :
    configured.Serving ∧ configured.sc.image.isSome = true ∧ (63#8).toNat ≤ 63 ∧ 63 < (64#8).toNat ∧
      (15#8).toNat ≤ 15 ∧ 15 < (16#8).toNat ∧ (7#8).toNat < 8 ∧ 7 < (8#8).toNat ∧ 1 ≤ (1#8).toNat ∧ (4#8).toNat ≤ 4 ∧
      (0#8).toNat = 0 ∧ 4 < (5#8).toNat ∧ (onLine .active 2).st.entries[14]? = some .free ∧
      (onLine .active 2).st.roster[1]? = some { station := 11, joined := 500, lastHeard := 598 } ∧
      (cancelEntry .queued none).kind = .cancel ∧ (entry .sent (some sendData)).kind = .cue ramp false ∧
      (cancelEntry .queued none).send = none ∧ (entry .sent (some sendData)).send = some sendData ∧
      { configured with cg := { configured.cg with channels := configured.cg.channels.set 6 (.hold 9) } }.cg.channels.get 6
        = .hold 9 := by decide

/-- The CONFIGURE of the test image, whose every field is valid; the same with a count of 9 subscription entries, field
15, the fields before it valid; and with two entries, the second of which repeats the first one's group. -/
theorem witness_ConfigureTakenOrRefused :
    (onLine .active 1).Serving ∧ (onLine .active 1).sc.state ≠ .config ∧ configured.Serving ∧
      configured.sc.state = .config ∧ 33 + 5 * announced image.bytes ≤ image.bytes.length + 1 ∧
      Image.ofBytes image.bytes = .ok image ∧
      33 + 5 * announced (image.bytes.set 31 9) ≤ (image.bytes.set 31 9).length + 1 ∧
      Image.ofBytes (image.bytes.set 31 9) = .error (15, 0xFF) ∧
      (image.bytes.set 31 9).map BitVec.toNat = [3, 0, 1, 16, 24, 1, 3, 1, 4, 8, 2, 130, 0, 1] ++ List.replicate 17 0 ++
        [9, 12, 255, 255, 3, 255] ∧
      33 + 5 * announced (image.bytes.set 31 2 ++ [12, 255, 7, 255, 255]) ≤
        (image.bytes.set 31 2 ++ [12, 255, 7, 255, 255]).length + 1 ∧
      (image.bytes.set 31 2 ++ [12, 255, 7, 255, 255]).drop 31 = [2, 12, 255, 255, 3, 255, 12, 255, 7, 255, 255] ∧
      Image.ofBytes (image.bytes.set 31 2 ++ [12, 255, 7, 255, 255]) = .error (16, 1) := by
  refine ⟨by decide, by decide, by decide, by decide, by decide, by rfl, by decide, by rfl, by decide, by decide,
    by decide, by rfl⟩

theorem witness_StationCommandsByState :
    configured.Serving ∧ configured.sc.state = .config ∧ configured.sc.image = some image ∧
      { configured with sc := State.reset.sc }.sc.image = none ∧ (onLine .leaving 1).Serving ∧
      (onLine .leaving 1).sc.state ≠ .config ∧ (onLine .leaving 1).sc.state ≠ .claiming ∧
      (onLine .leaving 1).sc.state ≠ .active ∧ (onLine .leaving 1).sc.state ≠ .quiet ∧
      (onLine .quiet 1).sc.state = .quiet ∧ image.role = .talker ∧ { image with role := .listener }.role = .listener := by
  decide

theorem witness_LeaveWithdrawsQueued :
    ((onLine .claiming 1).Serving ∧ (onLine .claiming 1).sc.state = .claiming) ∧
      (onLine .active 1).Serving ∧ (onLine .active 1).sc.state = .active := by decide

/-- Sixteen open entries. -/
def fullOutbox : List OutEntry :=
  (List.range 16).map fun i => { entry .queued none with serial := BitVec.ofNat 10 i }

/-- The bytes of SUBMIT_CUE for the cue of section 12.2, with the lead 1023 and then 1024. -/
theorem witness_SubmitChecksAndCreates :
    (onLine .quiet 1).Serving ∧ (onLine .quiet 1).sc.state ≠ .claiming ∧ (onLine .quiet 1).sc.state ≠ .active ∧
      (onLine .active 1).Serving ∧ 12 ≤ ([12, 2, 2, 200, 30, 0, 0, 15, 3, 255, 0] : List Byte).length + 1 ∧
      CueTemplate.ofBytes (onLine .active 1).slots [12, 2, 2, 200, 30, 0, 0, 15, 3, 255, 0] =
        some { ramp with contents := { ramp.contents with dueSlot := 15 }, lead := 1023 } ∧
      CueTemplate.ofBytes (onLine .active 1).slots [12, 2, 2, 200, 30, 0, 0, 15, 4, 0, 0] = none ∧
      (onLine .active 1).ob.entries.length < 16 ∧ 16 ≤ (withEntries (onLine .active 1) fullOutbox).ob.entries.length := by
  decide

theorem witness_SerialIsFirstFree : (fullOutbox.take 15).length ≤ 15 := by decide

theorem witness_CancelByStanding :
    1023 < (4#8).toNat * 256 + (0#8).toNat ∧ (3#8).toNat * 256 + (255#8).toNat ≤ 1023 ∧ (onLine .active 1).Serving ∧
      (withEntries (onLine .active 1) [entry .queued none]).ob.find .cue 130 = some (entry .queued none) ∧
      (withEntries (onLine .active 1) [cancelEntry .queued none]).ob.cancelOpen 130 = true ∧
      ((withEntries (onLine .active 1) [entry .sending none]).ob.find .cue 130 = some (entry .sending none) ∧
        (withEntries (onLine .active 1) [entry .sending none]).ob.cancelOpen 130 = false ∧
        (entry .sending none).kind = .cue ramp false) ∧
      16 ≤ ({ entry .sending none with serial := 0 } :: fullOutbox.drop 1).length ∧
      (onLine .active 1).ob.find .cue 130 = none ∧ (onLine .active 1).ob.entries.length < 16 ∧
      (onLine .active 1).cq.holds { originator := 3, serial := 130 } = false ∧
      ((onLine .active 1).cq.takeCue 600
        { id := { originator := 3, serial := 130 }, retry := false, lead := 40, contents := ramp.contents }).1.holds
          { originator := 3, serial := 130 } = true ∧
      (withEntries (onLine .active 1) fullOutbox).ob.find .cue 130 = none ∧
      (onLine .leaving 1).sc.state ≠ .claiming ∧ (onLine .leaving 1).sc.state ≠ .active ∧
      (withEntries (onLine .leaving 1) [entry .sent (some sendData)]).ob.find .cue 130 =
        some (entry .sent (some sendData)) := by decide

/-- An outbox with a SENT CUE and a SENT CANCEL of one serial. -/
def sentPair : State := withEntries (onLine .active 4) [entry .sent (some sendData), cancelEntry .sent (some sendData)]

theorem sentPair_lawful : sentPair.ob.Lawful := ⟨by decide, by decide⟩

theorem witness_AnswersReplaceByTable :
    Verdict.accepted ≠ .queueFull ∧ Verdict.unknown ≠ .duplicate ∧ Verdict.unknown ≠ .queueFull ∧
      (({ sendData with answers := [(5, .queueFull), (11, .accepted)] } : SendData).answers.map Prod.fst).Pairwise (· < ·) ∧
      sentPair.ob.Lawful ∧ sentPair.ob.find Verdict.accepted.kind 130 = some (entry .sent (some sendData)) ∧
      (5 : Station) ∈ sendData.expected :=
  ⟨by decide, by decide, by decide, by decide, sentPair_lawful, by decide, by decide⟩

theorem witness_DriveChannelChecksAndApplies :
    configured.Serving ∧ configured.sc.image.isSome = true ∧ 7 ≤ ([8, 1, 0, 0, 0, 0] : List Byte).length + 1 ∧
      7 < (byteAt [8, 1, 0, 0, 0, 0] 0).toNat ∧ (byteAt [7, 5, 0, 0, 0, 0] 0).toNat ≤ 7 ∧ Action.ofBytes 5 0 0 0 0 = none ∧
      Action.ofBytes 2 10 0 0 0 = none ∧ Action.ofBytes 2 10 1 0 0 = some (.ramp 10 1) ∧ (Action.ramp 10 1).code = 2 ∧
      configured.sc.state.cyclesRun = false ∧ (onLine .quiet 1).sc.state.cyclesRun = true ∧
      Action.ofBytes 1 255 0 0 0 = some (.set 255) := by decide

theorem witness_ActionsAndFaultPolicy :
    { ChanSettings.reset with policy := .safe }.policy = .safe ∧ ChanSettings.reset.policy = .hold := by decide

theorem witness_RampRunsToTarget :
    (0#8).toNat + 1 < (2#8).toNat ∧ (254#8).toNat + 1 = (255#8).toNat ∧ (1 ≤ 254 ∧ 254 < (255#8).toNat) ∧
      (0#8).toNat ≤ (255#8).toNat ∧ 1 ≤ (1#8).toNat := by decide

theorem witness_PulseTrainRuns :
    (1 : Byte) ≠ 0 ∧ (255 : Byte) ≠ 0 ∧ 1 < (2#8).toNat ∧ 2 ≤ (2#8).toNat ∧
      0 < (1#8).toNat * (1#8).toNat + ((1#8).toNat - 1) * (255#8).toNat := by decide

theorem witness_PwmPeriodTakesLevels :
    heldInReset.held = true ∧ configured.held = false ∧ 62499 < pwmPeriod 2 := by decide

theorem witness_TriggerBindingCommands :
    configured.Serving ∧ configured.sc.image.isSome = true ∧ 14 ≤ (List.replicate 13 (2 : Byte)).length + 1 ∧
      1 < (byteAt [2] 0).toNat ∧ 2 < (byteAt [0, 3] 1).toNat ∧ (byteAt [1, 2] 0).toNat ≤ 1 ∧ (byteAt [1, 2] 1).toNat ≤ 2 ∧
      CueTemplate.ofBytes configured.slots (([1, 2, 0, 2, 4, 0, 0, 0, 0, 5, 0, 1, 1] : List Byte).drop 2) = none ∧
      (CueTemplate.ofBytes configured.slots (([1, 2, 12, 2, 4, 0, 0, 0, 0, 5, 0, 1, 1] : List Byte).drop 2)).isSome = true ∧
      byteAt [1, 2] 0 = inputCode .trig1 ∧ byteAt [0] 0 = inputCode .trig0 ∧ 2 ≤ ([0] : List Byte).length + 1 := by decide

/-- A binding to rising edges. -/
def risingBinding (dueSlot : Nat) : Binding :=
  { edge := .rising, template := { ramp with contents := { ramp.contents with dueSlot := dueSlot } } }

/-- TRIG0 bound to rising edges. -/
def bound (s : State) (dueSlot : Nat) (last : Option Serial) : State :=
  { s with trig0 := { level := .low, lastSerial := last, binding := some (risingBinding dueSlot) } }

theorem witness_TriggerEdgesPresented :
    configured.held = false ∧ configured.trig0.binding = none ∧ (bound (onLine .active 1) 15 none).held = false ∧
      ((bound (onLine .active 1) 15 none).trigger .trig0).lastSerial = none ∧
      (bound (onLine .active 1) 15 none).ob.entries.length < 16 ∧ 15 < (bound (onLine .active 1) 15 none).slots ∧
      (bound (onLine .active 1) 16 none).slots ≤ 16 ∧
      ((bound (withEntries (onLine .active 1) [{ entry .queued none with source := .trigger .trig0 }]) 15
        (some 130)).ob.entries.any fun e => e.isCue && e.serial == 130 && e.source == .trigger .trig0 && e.state != .sent)
        = true ∧
      16 ≤ (bound (withEntries (onLine .active 1) fullOutbox) 15 none).ob.entries.length ∧
      (onLine .leaving 1).sc.state ≠ .claiming ∧ (onLine .leaving 1).sc.state ≠ .active ∧
      EdgeCode.falling ≠ .both := by decide

theorem witness_OpeningsStart :
    ((after (exec (.start [] []) configured)).sc.state = .listening ∧
      (after (exec (.start [] []) configured)).ct.phase = .waiting) ∧
      (onLine .active 15).sc.state.cyclesRun = true ∧ (onLine .active 15).ct.phase = .slots ∧
      (onLine .active 15).ct.slotIndex = some ((onLine .active 15).slots - 1) ∧
      { onLine .active 15 with slot := { SlotReport.blank with judged := true } }.slot.judged = true ∧
      { onLine .active 15 with slot := { SlotReport.blank with ended := true } }.listens = true ∧
      (withOpening (onLine .active 15) .participant (opening .pulse 0 0 false)).ct.role = .participant ∧
      (opening15.lc.dominantRun = 0 ∧ opening15.ct.position = some 0 ∧
        opening15.ct.opening.map Opening.stage = some .pulse) ∧
      (withOpening (onLine .active 15) .participant (opening .number 0 0 false)).ct.opening =
        some (opening .number 0 0 false) := by decide

/-- Proposal 601 meets 601, the latest later number and the first number that is not later. -/
theorem witness_NumberFieldSettles :
    (withOpening (onLine .active 15) .participant (opening .number 0 0 false)).ct.phase = .opening ∧
      (withOpening (onLine .active 15) .participant (opening .number 0 0 false)).ct.proposal = some 601 ∧
      ~~~(~~~601#32) = 601#32 ∧ (2147484248#32 - 601#32).toNat = 2147483647 ∧ (602#32 - 601#32).toNat = 1 ∧
      2147483648 ≤ (2147484249#32 - 601#32).toNat ∧
      { firstBit.lc with heldMismatch := true }.heldMismatch = true ∧
      (withOpening (onLine .quiet 15) .observer (opening .number 0 0 false)).ct.role ≠ .participant ∧
      { opening .number 0 0 false with numberDamaged := true }.numberDamaged = true := by decide

theorem witness_OpeningEndSettles :
    (withOpening (onLine .active 15) .participant (opening .shape 601 0 false)).ct.phase = .opening ∧
      (withOpening (onLine .active 15) .participant (opening .shape 601 0 false)).ct.opening =
        some (opening .shape 601 0 false) ∧
      (opening .shape 601 0 false).stage = .shape ∧
      (withOpening (onLine .active 15) .participant (opening .shape 601 0 false)).sc.image = some image ∧
      image.shapeMatches (image.shapeByte + 3) = true ∧ (opening .shape 601 0 false).backward = false := by decide

theorem witness_OpeningEndHaltsOrResyncs :
    (withOpening (onLine .active 15) .participant (opening .shape 3 0 true)).ct.phase = .opening ∧
      (withOpening (onLine .active 15) .participant (opening .shape 3 0 true)).ct.opening = some (opening .shape 3 0 true) ∧
      image.shapeMatches image.shapeByte = true ∧ (opening .shape 3 0 true).backward = true ∧
      (opening .shape 3 0 true).slip = 0 ∧ (opening .shape 3 0 true).shapeDamaged = false ∧
      image.shapeMatches (image.shapeByte + 4) = false := by decide

theorem witness_PulsesAndOpeningDamage :
    (11 ≤ 11 ∧ 39 ≤ 39) ∧ (after (exec (.start [] []) configured)).ct.phase = .waiting ∧
      (onLine .active 7).sc.state.cyclesRun = true ∧ (onLine .active 7).ct.phase = .slots ∧
      (opening .number 0 0 false).stage ≠ .pulse ∧ (onLine .lineFault 7).sc.state.onLine = false ∧
      (withOpening (onLine .active 15) .participant (opening .pulse 0 0 false)).ct.opening = some (opening .pulse 0 0 false) ∧
      (withOpening (onLine .listening 0) .participant (opening .pulse 0 0 false)).ct.phase = .opening ∧
      (withOpening (onLine .listening 0) .observer (opening .shape 0 0 false)).ct.role = .observer ∧
      (withOpening (onLine .listening 0) .participant (opening .shape 0 0 false)).ct.role ≠ .observer := by decide

/-- A table of one slot, held by station 5: no FREE slot. -/
def crowded (armed : Bool) : State :=
  { onLine .claiming 0 with
    ct := { (onLine .claiming 0).ct with slotIndex := none }
    st := { table with entries := [{ view := .held 5 0, failures := 0 }], reportArmed := armed } }

theorem witness_SlotBeginsWithItsWork :
    ((onLine .active 15).sc.state.cyclesRun = true ∧ (onLine .active 15).ct.phase = .slots) ∧
      ({ onLine .active 1 with slot := { SlotReport.blank with judged := true } }.ct.slotIndex = some (2 - 1) ∧
        table.view 2 = .held 3 0 ∧ StationState.active.stages = true) ∧
      ((onLine .active 14).ct.slotIndex = some (15 - 1) ∧ 15 < (onLine .active 14).slots ∧ table.view 15 = .free) ∧
      later 600 599 = true ∧ (crowded true).ct.slotIndex = none ∧
      ((crowded true).sc.state = .claiming ∧ (crowded true).heldCount + (crowded true).claimedCount < (crowded true).wanted) ∧
      (∀ k, 1 ≤ k → k ≤ (crowded true).st.entries.length → (crowded true).st.view k ≠ .free) ∧
      (crowded true).st.reportArmed = true ∧ (crowded false).st.reportArmed = false ∧
      table.entries[1 - 1]?.map SlotEntry.view = some .free ∧ (onLine .active 0).sc.state ≠ .claiming := by
  refine ⟨by decide, by decide, by decide, by decide, by decide, by decide, ?_, by decide, by decide, by decide, by decide⟩
  intro k h1 h2
  have : k = 1 := by have : (crowded true).st.entries.length = 1 := by decide
                     omega
  subst this
  decide

theorem witness_SlotFrameContent :
    (onLine .leaving 2).sc.image = some image ∧ (entry .queued none).kind = .cue ramp false ∧
      (entry .queued none).send = none ∧ (entry .sent (some sendData)).send = some sendData ∧
      (cancelEntry .queued none).kind = .cancel ∧
      entry .queued none ∈ (withEntries (onLine .active 2) [entry .queued none]).ob.entries := by decide

theorem witness_SlotEndJudges :
    (onLine .active 15).ct.slotIndex = some 15 ∧ (onLine .active 15).sc.state.cyclesRun = true ∧
      (onLine .active 15).ct.phase = .slots ∧ (onLine .active 15).slot.judged = false ∧
      (onLine .active 15).fb.transmission = none ∧ (onLine .active 15).listens = true ∧
      { onLine .active 15 with slot := { SlotReport.blank with own := .bitError } }.listens = false ∧
      { onLine .active 0 with slot := { SlotReport.blank with own := .claimCompleted 1 } }.slot.own = .claimCompleted 1 ∧
      { onLine .active 0 with slot := { SlotReport.blank with finding := some (.claim 1 5) } }.slot.finding =
        some (.claim 1 5) := by decide

theorem witness_CountCheckMovesStation :
    (onLine .claiming 2).wanted ≤ (onLine .claiming 2).heldCount ∧
      { onLine .claiming 2 with st := { table with entries := [] } }.heldCount < (onLine .claiming 2).wanted ∧
      { onLine .leaving 2 with st := { table with entries := [] } }.heldCount = 0 ∧
      { onLine .leaving 2 with st := { table with entries := [] } }.claimedCount = 0 ∧
      ¬((onLine .leaving 2).heldCount = 0 ∧ (onLine .leaving 2).claimedCount = 0) ∧
      (onLine .quiet 2).sc.state.stages = false := by decide

theorem witness_DepartureFollowsLastSlot :
    (onLine .active 7).st.heldSlots 11 ≠ [] ∧ (onLine .active 7).st.peer 9 = none ∧
      (table.put 7 .free).heldSlots 11 = [] ∧
      (table.put 7 .free).peer 11 = some { station := 11, joined := 500, lastHeard := 598 } ∧
      (entry .queued none).send = none ∧ (entry .sent (some sendData)).send = some sendData := by decide

theorem witness_SilenceAndReleaseJudged :
    (table.entries[1 - 1]? = some .free ∧ 1 ≤ 1) ∧ later 600 600 = false ∧ later 600 599 = true ∧ (5 : Station) ≠ 3 ∧
      (table.entries[7 - 1]? = some { view := .held 11 2, failures := 0 } ∧ (onLine .active 7).silenceLimit ≤ 2 + 1 ∧
        1 + 1 < (onLine .active 7).silenceLimit) ∧
      table.entries[2 - 1]? = some { view := .held 3 0, failures := 0 } ∧ (table.view 1).owner ≠ some 5 ∧
      table.view 7 = .held 11 2 := by decide

theorem witness_ClaimRecorded :
    (onLine .active 0).slots ≤ 16 ∧ (1 ≤ 15 ∧ 15 < (onLine .active 0).slots) ∧ (5 : Station) ≠ (onLine .active 0).self ∧
      (onLine .active 0).st.view 2 = .held 3 0 ∧ (onLine .active 0).st.view 15 = .free ∧
      (onLine .active 0).st.view 7 = .held 11 2 ∧
      (table.put 3 { view := .claimed 9 599, failures := 0 }).view 3 = .claimed 9 599 := by decide

theorem witness_OwnerSeen :
    ((5 : Station) ≠ (onLine .active 7).self ∧ 1 ≤ 7) ∧ (∃ p ∈ (onLine .active 7).st.roster, p.station = 5) ∧
      (∀ p ∈ (onLine .active 7).st.roster, p.station ≠ 9) ∧ ((onLine .active 2).st.view 2).owner = some (onLine .active 2).self ∧
      (onLine .active 7).st.view 7 = .held 11 2 ∧ (onLine .active 7).st.view 15 = .free := by decide

theorem witness_OwnFrameJudged :
    (1 ≤ 2 ∧ table.entries[2 - 1]? = some { view := .held 3 0, failures := 0 }) ∧ 2 < (onLine .active 2).silenceLimit ∧
      (onLine .active 2).silenceLimit ≤ 3 ∧
      (table.put 2 { view := .claimed 3 599, failures := 0 }).entries[2 - 1]? =
        some { view := .claimed 3 599, failures := 0 } ∧
      (table.view 7).owner ≠ some 3 := by decide

theorem witness_SlotFrameCompletes :
    (sending [] [.release 2]).fb.transmission = some { kind := .slot 2, cycleCheck := 0x58, items := [.release 2] } ∧
      (sending [] []).st.entries[2 - 1]? = some { view := .held 3 0, failures := 0 } ∧
      (SlotView.held 3 0).heldBy (sending [] []).self = true ∧ (SlotView.claimed 3 0).heldBy (sending [] []).self = false := by
  decide

/-- A withdraw-pending CUE entry on its first send, and its CANCEL entry. -/
def pendingPair : State :=
  withEntries (onLine .active 2) [{ entry .sending none with kind := .cue ramp true }, cancelEntry .queued none]

theorem pendingPair_lawful : pendingPair.ob.Lawful := ⟨by decide, by decide⟩

theorem witness_FirstSends :
    (withEntries (onLine .active 2) [entry .sending none, cancelEntry .sending none]).ob.Lawful ∧
      (withEntries (onLine .active 2) [entry .sending none, cancelEntry .sending none]).ob.find .cue 130 =
        some (entry .sending none) ∧
      (withEntries (onLine .active 2) [entry .sending none, cancelEntry .sending none]).ob.find .cancel 130 =
        some (cancelEntry .sending none) ∧
      pendingPair.ob.Lawful ∧ pendingPair.ob.find .cue 130 = some { entry .sending none with kind := .cue ramp true } ∧
      pendingPair.ob.find .cancel 130 = some (cancelEntry .queued none) ∧
      { entry .sending none with kind := .cue ramp true }.kind = .cue ramp true :=
  ⟨⟨by decide, by decide⟩, by decide, by decide, pendingPair_lawful, by decide, by decide, rfl⟩

theorem witness_SentItemsAndRetries :
    (sending [entry .sending none] []).ob.find .cue 130 = some (entry .sending none) ∧
      (sending [entry .sending (some sendData)] []).ob.find .cue 130 = some (entry .sending (some sendData)) ∧
      (sending [cancelEntry .sending none] []).ob.find .cancel 130 = some (cancelEntry .sending none) ∧
      (sending [] []).ob.find .cue 130 = none ∧ (sending [] []).ob.find .cancel 130 = none := by decide

theorem witness_SlotFrameFails :
    (sending [] []).fb.transmission = some { kind := .slot 2, cycleCheck := 0x58, items := [] } ∧
      (sending [] []).st.entries[2 - 1]? = some { view := .held 3 0, failures := 0 } ∧
      (SlotView.held 3 0).heldBy (sending [] []).self = true ∧ (SlotView.claimed 3 0).claimedBy (sending [] []).self = true ∧
      (SlotView.held 5 0).owner ≠ some (sending [] []).self ∧
      (cancelEntry .queued none ∈ pendingPair.ob.entries ∧
        { entry .sending none with kind := .cue ramp true } ∈ pendingPair.ob.entries ∧
        { entry .sending none with kind := .cue ramp true }.withdrawPending = true) ∧
      entry .sending (some sendData) ∈ (withEntries (onLine .active 2) [entry .sending (some sendData)]).ob.entries ∧
      (entry .sending none).withdrawPending = false ∧ (onLine .active 2).sc.state.talking = true ∧
      (onLine .leaving 2).sc.state.talking = false := by decide

theorem witness_ClaimFrameOutcomes :
    claimSending.fb.transmission = some { kind := .claim 3, cycleCheck := 0x58, items := [] } := by decide

/-- A claim frame for slot `r` by station `z` (all of it but its CRC is written out; the CRC is that of R127). -/
def claimFrame (r z : Byte) : List Byte := [r, z, 0x58] ++ crcBytes [r, z, 0x58]

/-- The findings of R134 at their boundaries. -/
def finds (r : Except FrameFault Finding) (f : Option Finding) : Bool :=
  match r, f with
  | .ok g, some h => g == h
  | .error _, none => true
  | _, _ => false

theorem witness_ReceivedFrames :
    ((onLine .active 4).listens = true ∧ (onLine .active 4).ct.slotIndex = some 4) ∧
      finds (assess 4 16 24 ackFrame false) (some (.slotFrame 5)) = true ∧
      finds (assess 4 16 24 (ackFrame.set 3 0) false) none = true ∧ finds (assess 4 16 24 [] false) none = true ∧
      overlong 4 24 [] = false ∧ overlong 4 24 [5, 0x58, 25] = true ∧ overlong 4 24 [5, 0x58, 24] = false ∧
      finds (assess 0 16 24 (claimFrame 15 5) false) (some (.claim 15 5)) = true ∧
      finds (assess 0 16 24 (claimFrame 16 5) false) (some (.claim 16 5)) = true ∧
      finds (assess 0 16 24 (claimFrame 0 3) false) (some (.claim 0 3)) = true ∧
      byteAt ackFrame 1 = (onLine .active 4).ct.cycle.setWidth 8 ∧ byteAt ackFrame 1 ≠ (601#32).setWidth 8 ∧
      finds (assess 4 16 24 (TxFrame.bytes { kind := .slot 4, cycleCheck := 0, items := [] } 3) false)
        (some (.slotFrame 3)) = true ∧
      { onLine .active 4 with slot := { SlotReport.blank with own := .arbitrationLost } }.listens = true ∧
      { onLine .active 4 with slot := { SlotReport.blank with ended := true } }.listens = true ∧
      (onLine .active 4).lc.reception = none ∧ (onLine .active 4).slot.swallow = false ∧
      (onLine .active 4).fb.transmission = none ∧ (onLine .active 14).ct.slotIndex = some 14 ∧
      14 + 1 < (onLine .active 14).slots ∧ { onLine .active 4 with slot := { SlotReport.blank with judged := true } }.slot.early = false ∧
      ([5, 0x58] : List Byte).length ≤ 2 ∧ { SlotReport.blank with early := true }.early = true := by decide +kernel

/-- A staging list of 32 entries. -/
def fullStaging : List Staged :=
  (List.range 32).map fun i => { id := { originator := 5, serial := BitVec.ofNat 10 i }, verdict := .accepted, flight := .waiting }

theorem witness_ItemsDispatched :
    (onLine .quiet 4).sc.state.stages = false ∧ (onLine .leaving 4).sc.state.stages = true ∧
      (fullStaging.any fun e => e.id == { originator := 5, serial := 31 } && e.verdict.kind == Verdict.duplicate.kind) = true ∧
      (fullStaging.any fun e => e.id == { originator := 5, serial := 32 } && e.verdict.kind == Verdict.duplicate.kind) = false ∧
      32 ≤ fullStaging.length ∧ (fullStaging.take 31).length < 32 ∧
      (onLine .active 4).ob.find Verdict.accepted.kind 130 = none ∧ (9 : Station) ∉ sendData.expected := by decide

/-- The queue of section 3.11 with the retired entry named there. -/
def queue : CueQueue :=
  { records :=
      [{ id := { originator := 5, serial := 40 }, group := 30, position := 1, channel := 4, action := .ramp 200 30,
         dueCycle := 7002, dueSlot := 5, replace := false, arrival := 17 },
       { id := { originator := 3, serial := 90 }, group := 31, position := 2, channel := 4, action := .set 80,
         dueCycle := 7010, dueSlot := 0, replace := false, arrival := 18 }]
    retired := [{ id := { originator := 3, serial := 88 }, reason := .fired }]
    insertions := 19
    subscriptions := [{ group := 30, pos0 := some 1, pos1 := some 4, pos2 := none, pos3 := none },
                      { group := 31, pos0 := none, pos1 := none, pos2 := some 4, pos3 := none }] }

theorem queue_lawful : queue.Lawful :=
  ⟨by decide, by decide, by decide, by decide, by decide, by decide, by decide⟩

/-- The first item of section 3.11: CUE 41 from station 5. -/
def cue41 : CueItem :=
  { id := { originator := 5, serial := 41 }, retry := false, lead := 2,
    contents := { group := 30, position := 0, action := .set 255, dueSlot := 5, replace := false } }

/-- Section 3.11: (5, 41) stands between (5, 40) and (3, 90) with arrival sequence 19. -/
theorem test_queue_example :
    ((queue.takeCue 7000 cue41).1.records.map fun r => (r.id.serial, r.arrival)) = [(40, 17), (41, 19), (90, 18)] ∧
      (queue.takeCue 7000 cue41).2.1 = .accepted ∧
      (queue.takeCancel { originator := 5, serial := 39 }).2 = .unknown := by decide

theorem witness_CueVerdicts :
    queue.Lawful ∧ queue.channelOf 29 0 = none ∧ queue.channelOf 30 0 = some 1 ∧
      (∃ r ∈ queue.records, r.id = { originator := 5, serial := 40 }) ∧
      (∀ r ∈ queue.records, r.id ≠ cue41.id) ∧ cue41.retry = false ∧
      { id := { originator := 3, serial := 88 }, reason := .fired } ∈ queue.retired ∧
      (∀ r ∈ queue.records, r.id ≠ { originator := 3, serial := 88 }) ∧
      (∀ e ∈ queue.retired, e.id ≠ cue41.id) :=
  ⟨queue_lawful, by decide, by decide, by decide, by decide, by decide, by decide, by decide, by decide⟩

theorem witness_QueueAndRetiredOrder :
    queue.records.Pairwise (fun x y => ¬((y.dueCycle - 7000).toNat < (x.dueCycle - 7000).toNat ∨
      ((y.dueCycle - 7000).toNat = (x.dueCycle - 7000).toNat ∧ y.dueSlot < x.dueSlot))) ∧
      queue.retired.length < 32 ∧ (queue.retired.map Retired.id).Nodup ∧
      ((List.range 32).map fun i => ({ originator := 0, serial := BitVec.ofNat 10 i } : CueId)).length = 32 := by decide

theorem witness_CancelVerdicts :
    queue.Lawful ∧ (∃ before r after, queue.records = before ++ r :: after ∧ r.id = { originator := 3, serial := 90 }) ∧
      (∀ r ∈ queue.records, r.id ≠ { originator := 3, serial := 88 }) ∧
      (∃ e ∈ queue.retired, e.id = { originator := 3, serial := 88 }) ∧
      (∀ e ∈ queue.retired, e.id ≠ { originator := 5, serial := 39 }) ∧
      queue.channelOf cue41.contents.group cue41.contents.position ≠ none :=
  ⟨queue_lawful, ⟨queue.records.take 1, _, [], rfl, rfl⟩, by decide, by decide, by decide, by decide⟩

theorem witness_LineFaultCommands :
    ((withOpening (onLine .active 15) .participant (opening .pulse 0 0 false)).sc.state.onLine = true ∧
      (withOpening (onLine .active 15) .participant (opening .pulse 0 0 false)).ct.opening = some (opening .pulse 0 0 false)) ∧
      (onLine .listening 0).sc.state.onLine = true ∧ (onLine .lineFault 0).sc.state = .lineFault := by decide

theorem witness_ConfigureRoundTrip : image.Valid :=
  ⟨by decide, by decide, by decide, by decide, by decide, by decide, by decide, by decide⟩

theorem ramp_valid : ramp.Valid 16 :=
  ⟨by decide, show (30 : Byte) ≠ 0 by decide, by decide, by decide⟩

theorem witness_TemplateRoundTrip : ramp.Valid 16 ∧ { ramp with lead := 1023 }.Valid 6 ∧ 32 ≤ 32 :=
  ⟨ramp_valid, ⟨by decide, show (30 : Byte) ≠ 0 by decide, by decide, by decide⟩, le_rfl⟩

/-- Two CUE items fill the 24 bytes of P = 24. -/
theorem witness_FrameRoundTrip :
    (([.cue 130 false 40 ramp.contents, .cue 1023 true 1 ramp.contents] : List TxItem).flatMap TxItem.bytes).length ≤ 24 ∧
      (∀ i ∈ ([.cue 130 false 40 ramp.contents, .release 15, .ack ⟨31, 1023⟩ .unknown, .cancel 0] : List TxItem), i.Valid 16) ∧
      (255 : Nat) < 256 := by
  refine ⟨by decide, ?_, by decide⟩
  intro i hi
  simp only [List.mem_cons, List.not_mem_nil, or_false] at hi
  rcases hi with rfl | rfl | rfl | rfl
  · exact ramp_valid
  · exact ⟨by decide, by decide⟩
  · trivial
  · trivial

/-! ## The laws hold in a state in use -/

/-- Slot 9 of cycle 600: the cue of section 12.2 is sent and unanswered, a cue of station 7 waits on channel 3, its
verdict is staged, channel 3 runs a ramp, TRIG0 is bound, and the end of the slot is the command in front. -/
def busy : State :=
  { bound (withEntries (onLine .active 9) [entry .sent (some sendData)]) 15 none with
    cq := { State.reset.cq with
      records := [{ id := { originator := 7, serial := 5 }, group := 12, position := 2, channel := 3,
                    action := .set 9, dueCycle := 600, dueSlot := 10, replace := false, arrival := 0 }]
      insertions := 1, subscriptions := image.subscriptions }
    fb := { staging := [{ id := { originator := 7, serial := 5 }, verdict := .accepted, flight := .waiting }]
            transmission := none }
    cg := { State.reset.cg with channels := { State.reset.cg.channels with c3 := .ramp 0 0 200 30 1 } }
    pending := [.slotEnds none] }

theorem witness_StationMovesFollowTransitions :
    busy.TimerLawful ∧ ∃ t, exec (.slotEnds none) busy = .next t := by
  refine ⟨⟨by decide, by decide, by decide, by decide, ?_, by decide, by decide, by decide, by decide⟩, _, rfl⟩
  rintro k ⟨⟩
  decide

theorem witness_StepKeepsEventQueue :
    (∃ t, step busy = .next t) ∧ busy.ev.Lawful ∧ busy.counters.Lawful :=
  ⟨⟨_, rfl⟩, ⟨by decide, by decide, by decide, by decide⟩,
    ⟨by decide, by decide, by decide, by decide, by decide, by decide, by decide, by decide⟩⟩

theorem witness_StepKeepsCueQueue : (∃ t, step busy = .next t) ∧ busy.cq.Lawful :=
  ⟨⟨_, rfl⟩, ⟨by decide, by decide, by decide, by decide, by decide, by decide, by decide⟩⟩

theorem witness_StepKeepsOutbox : (∃ t, step busy = .next t) ∧ busy.ob.Lawful :=
  ⟨⟨_, rfl⟩, ⟨by decide, by decide⟩⟩

theorem witness_StepKeepsStaging : (∃ t, step busy = .next t) ∧ busy.StagingLawful :=
  ⟨⟨_, rfl⟩, ⟨by decide, by decide, by decide, by decide⟩⟩

theorem busy_bindings (i : TrigInput) (b : Binding) (h : (busy.trigger i).binding = some b) :
    b.template.contents.action.Lawful := by
  cases i <;> cases h
  exact show (30 : Byte) ≠ 0 by decide

theorem busy_templates (e : OutEntry) (he : e ∈ busy.ob.entries) (t : CueTemplate) (ht : e.template = some t) :
    t = ramp := by
  cases List.mem_singleton.mp he
  cases ht
  rfl

theorem witness_StepKeepsChannels : (∃ t, step busy = .next t) ∧ busy.ChannelsLawful := by
  refine ⟨⟨_, rfl⟩, ?_, nofun, ?_, ?_, busy_bindings⟩
  · intro c
    fin_cases c <;> first | trivial | exact show 1 < 30 by decide
  · intro r hr
    cases List.mem_singleton.mp hr
    trivial
  · intro e he t ht
    rw [busy_templates e he t ht]
    exact show (30 : Byte) ≠ 0 by decide

theorem witness_StepKeepsTimer : (∃ t, step busy = .next t) ∧ busy.TimerLawful :=
  ⟨⟨_, rfl⟩, witness_StationMovesFollowTransitions.1⟩

theorem witness_StepKeepsRoster : (∃ t, step busy = .next t) ∧ busy.TimerLawful ∧ busy.RosterLawful := by
  refine ⟨⟨_, rfl⟩, witness_StationMovesFollowTransitions.1, by decide, by decide, ?_, by decide, by decide, by decide, by decide, ?_, ?_⟩
  · intro e he d hd
    cases List.mem_singleton.mp he
    cases hd
    decide
  · rintro k ⟨⟩
    decide
  · rintro z ⟨⟩

theorem witness_StepKeepsOwnSlots : (∃ t, step busy = .next t) ∧ busy.OwnSlotsLawful := by
  refine ⟨⟨_, rfl⟩, by decide, ?_, ?_, ?_, ?_, ?_, by decide⟩
  · rintro r c items ⟨⟩
  · rintro r ⟨⟩
  · rintro z ⟨⟩
  · rintro r c ⟨⟩
  · rintro r c ⟨⟩

theorem witness_StepKeepsLine : (∃ t, step busy = .next t) ∧ busy.LineLawful ∧ firstBit.LineLawful := by
  refine ⟨⟨_, rfl⟩,
    ⟨by decide, by decide, ?_, ?_, ?_, by decide, by decide, ?_, by decide, by decide, by decide, by decide, by decide⟩,
    ⟨by decide, by decide, ?_, ?_, ?_, by decide, by decide, ?_, by decide, by decide, by decide, by decide, by decide⟩⟩
  · rintro l ⟨⟩
  · exact ⟨nofun, fun ⟨f, r, h, _⟩ => nomatch h⟩
  · exact ⟨nofun, fun ⟨f, r, h, _⟩ => nomatch h⟩
  · rintro f ⟨⟩
  · rintro l ⟨⟩
  · refine ⟨nofun, ?_⟩
    rintro ⟨f, r, ⟨⟩, h⟩
    cases h
  · exact ⟨fun _ => ⟨_, 2, rfl, rfl⟩, fun _ => rfl⟩
  · rintro f ⟨⟩
    decide

theorem witness_StepKeepsDuePositions : (∃ t, step busy = .next t) ∧ busy.TimerLawful ∧ busy.DueLawful := by
  refine ⟨⟨_, rfl⟩, witness_StationMovesFollowTransitions.1,
    ?_, by decide, by decide, by decide, ?_, ?_, by decide, by decide, ?_, nofun, by decide, ?_, ?_, ?_, ?_, by decide⟩
  · rintro im ⟨⟩
    exact ⟨by decide, by decide, by decide, by decide, by decide, by decide, by decide, by decide⟩
  · intro r hr _
    cases List.mem_singleton.mp hr
    refine ⟨rfl, ?_⟩
    rintro k ⟨⟩
    decide
  · exact List.pairwise_singleton _ _
  · rintro _ _ o ⟨⟩
  · rintro f ⟨⟩
  · intro e he t ht
    rw [busy_templates e he t ht]
    exact ⟨by decide, by decide, by decide⟩
  · intro e he d hd
    cases List.mem_singleton.mp he
    cases hd
    exact ⟨by decide, rfl, by decide⟩
  · intro i b h
    cases i <;> cases h
    decide

end Sys2Proof.Tests
end

