-- ==== Sys2Proof/Proofs/CueQueue.lean ====
section
/-! PROOFS. The cue queue's lookups and its CANCEL verdict: what the queue's and the retired list's lookups answer in a lawful queue, one equation for each way a CANCEL or a CUE item can be answered from them, and the statement about the CANCEL item assembled from these. -/

namespace Sys2Proof.Machine

/-! ## The lookups of the queue and the retired list -/

theorem CueQueue.holds_iff {q : CueQueue} {id : CueId} : q.holds id = true ↔ ∃ r ∈ q.records, r.id = id := by
  simp [CueQueue.holds]

theorem CueQueue.holds_eq_false_iff {q : CueQueue} {id : CueId} :
    q.holds id = false ↔ ∀ r ∈ q.records, r.id ≠ id := by
  simp [CueQueue.holds]

theorem CueQueue.retiredAs_eq_none_iff {q : CueQueue} {id : CueId} :
    q.retiredAs id = none ↔ ∀ e ∈ q.retired, e.id ≠ id := by
  simp [CueQueue.retiredAs]

/-- R45: no id is retired twice, so the entry that the lookup meets first is the only one of its id. -/
theorem CueQueue.retiredAs_of_mem {q : CueQueue} (hids : (q.retired.map Retired.id).Nodup) {e : Retired}
    (he : e ∈ q.retired) : q.retiredAs e.id = some e.reason := by
  have hsome : (q.retired.find? fun x => x.id == e.id).isSome = true :=
    List.find?_isSome.2 ⟨e, he, beq_self_eq_true e.id⟩
  obtain ⟨x, hx⟩ := Option.isSome_iff_exists.1 hsome
  have hid : x.id = e.id := by simpa using List.find?_some hx
  have hxe : x = e := List.inj_on_of_nodup_map hids (List.mem_of_find?_eq_some hx) he hid
  rw [CueQueue.retiredAs, hx, hxe, Option.map_some]

/-- R45: the retired id is in the list, as its newest entry. -/
theorem mem_retire_self (list : List Retired) (id : CueId) (reason : RetireReason) :
    { id := id, reason := reason } ∈ retire list id reason :=
  List.mem_append_right _ (List.mem_singleton_self _)

/-- R45: an id just retired is found in the list with the reason it was retired for. -/
theorem CueQueue.retiredAs_retire {q : CueQueue} (hids : (q.retired.map Retired.id).Nodup) (id : CueId)
    (reason : RetireReason) :
    ({ q with retired := retire q.retired id reason } : CueQueue).retiredAs id = some reason :=
  CueQueue.retiredAs_of_mem (e := { id := id, reason := reason }) (retire_nodup hids id reason)
    (mem_retire_self q.retired id reason)

/-! ## One record leaves the queue -/

/-- R42, R52: no id is held twice, so removing an id takes out its one record, leaves the records before and after it in
their order, and retires that id alone. -/
theorem CueQueue.remove_id {q : CueQueue} (hids : (q.records.map CueRecord.id).Nodup) {before after : List CueRecord}
    {r : CueRecord} (hq : q.records = before ++ r :: after) (reason : RetireReason) :
    q.remove (fun x => x.id == r.id) reason =
      { q with records := before ++ after, retired := retire q.retired r.id reason } := by
  rw [hq, List.map_append, List.map_cons, List.nodup_middle, List.nodup_cons, ← List.map_append] at hids
  have hother : ∀ x ∈ before ++ after, x.id ≠ r.id := fun x hx heq =>
    hids.1 (heq ▸ List.mem_map_of_mem hx)
  obtain ⟨hbefore, hafter⟩ := List.forall_mem_append.1 hother
  have hkept : (q.records.filter fun x => !(x.id == r.id)) = before ++ after := by
    rw [hq, List.filter_append, List.filter_cons_of_neg (by simp),
      List.filter_eq_self.2 (by simpa using hbefore), List.filter_eq_self.2 (by simpa using hafter)]
  have hgone : (q.records.filter fun x => x.id == r.id) = [r] := by
    rw [hq, List.filter_append, List.filter_cons_of_pos (by simp),
      List.filter_eq_nil_iff.2 (by simpa using hbefore), List.filter_eq_nil_iff.2 (by simpa using hafter),
      List.nil_append]
  rw [CueQueue.remove, hkept, hgone, List.map_singleton, retireAll, List.foldl_cons, List.foldl_nil]

/-! ## The answers from the lookups -/

/-- R53: of the retired reasons only FIRED comes too late for a cancel. -/
theorem cancelVerdict_eq (reason : RetireReason) :
    cancelVerdict reason = if reason = .fired then .tooLate else .cancelled := by
  cases reason <;> rfl

/-- R52: a CANCEL item whose id is held. -/
theorem CueQueue.takeCancel_of_held {q : CueQueue} {id : CueId} (h : q.holds id = true) :
    q.takeCancel id = (q.remove (fun r => r.id == id) .cancelled, .cancelled) :=
  if_pos h

/-- R53: a CANCEL item whose id is not held but retired. -/
theorem CueQueue.takeCancel_of_retired {q : CueQueue} {id : CueId} {reason : RetireReason} (h : q.holds id = false)
    (hr : q.retiredAs id = some reason) : q.takeCancel id = (q, cancelVerdict reason) := by
  simp [CueQueue.takeCancel, h, hr]

/-- R53: a CANCEL item whose id is held nowhere. -/
theorem CueQueue.takeCancel_of_unknown {q : CueQueue} {id : CueId} (h : q.holds id = false)
    (hr : q.retiredAs id = none) :
    q.takeCancel id = ({ q with retired := retire q.retired id .cancelFirst }, .unknown) := by
  simp [CueQueue.takeCancel, h, hr]

/-- R48: a retry of a cue that is mine, not held and retired is answered from the retired list, and nothing is
stored. -/
theorem CueQueue.takeCue_retry_of_retired {q : CueQueue} {now : Cycle} {item : CueItem} {reason : RetireReason}
    (hmine : q.channelOf item.contents.group item.contents.position ≠ none) (hheld : q.holds item.id = false)
    (hr : q.retiredAs item.id = some reason) (hretry : item.retry = true) :
    q.takeCue now item = (q, retryVerdict reason, []) := by
  obtain ⟨channel, hchannel⟩ := Option.ne_none_iff_exists'.1 hmine
  simp [CueQueue.takeCue, hchannel, hheld, hr, hretry]

/-- R138: the queue after a CANCEL item from station `z`; staging its verdict does not touch the queue. -/
theorem State.dispatch_cancel_cq (z : Station) (s : State) (n : Serial) :
    (s.dispatch z (.cancel n)).cq = (s.cq.takeCancel { originator := z, serial := n }).1 := by
  simp [State.dispatch, State.takeCancelItem]

/-! ## The statement -/

/-- Settles O44: a case for each standing of the id (held, retired, held nowhere), each by its equation of `takeCancel`;
the retry after a CANCEL_FIRST is answered by the entry that the cancel put in the retired list. -/
theorem cancelVerdicts : Obligations.CancelVerdicts := by
  intro q z n lawful id
  refine ⟨?held, fun hfree => ?free, ?dispatched⟩
  case held =>
    intro before r after hq hr
    have hheld : q.holds r.id = true := CueQueue.holds_iff.2 ⟨r, by simp [hq], rfl⟩
    rw [← hr, CueQueue.takeCancel_of_held hheld, CueQueue.remove_id lawful.ids hq]
  case free =>
    have hheld : q.holds id = false := CueQueue.holds_eq_false_iff.2 hfree
    refine ⟨?retired, fun hfresh => ?unknown⟩
    case retired =>
      intro e he heid
      have hr : q.retiredAs id = some e.reason := heid ▸ CueQueue.retiredAs_of_mem lawful.retiredIds he
      rw [CueQueue.takeCancel_of_retired hheld hr, cancelVerdict_eq]
    case unknown =>
      intro marked
      refine ⟨CueQueue.takeCancel_of_unknown hheld (CueQueue.retiredAs_eq_none_iff.2 hfresh), ?_⟩
      intro now item hid hretry hmine
      have hfreeItem : marked.holds item.id = false := hid ▸ hheld
      have hr : marked.retiredAs item.id = some .cancelFirst :=
        hid ▸ CueQueue.retiredAs_retire lawful.retiredIds id .cancelFirst
      exact CueQueue.takeCue_retry_of_retired (q := marked) hmine hfreeItem hr hretry
  case dispatched =>
    rintro s rfl
    exact s.dispatch_cancel_cq z n

end Sys2Proof.Machine
end

