-- ==== Sys2Proof/Proofs/Channels.lean ====
section
/-! PROOFS. The channel generators: one equation for each way a running channel advances, the level of a ramp at each step, the place of a pulse train in its periods, and the statements about the whole course of a ramp and of a pulse train assembled from these. -/

namespace Sys2Proof.Machine

/-! ## One advance -/

theorem ChanState.advance_ramp_of_lt {n k : Byte} (h : k.toNat + 1 < n.toNat) (level start target : Byte) :
    (ChanState.ramp level start target n k).advance =
      .ramp (rampLevel start target n (k + 1)) start target n (k + 1) :=
  if_pos h

theorem ChanState.advance_ramp_of_last {n k : Byte} (h : n.toNat ≤ k.toNat + 1) (level start target : Byte) :
    (ChanState.ramp level start target n k).advance = .hold target :=
  if_neg (Nat.not_lt.2 h)

theorem ChanState.advance_pulse_of_lt {left : Byte} (h : 1 < left.toNat) (v a b m : Byte) (phase : Phase) :
    (ChanState.pulse v a b m phase left).advance = .pulse v a b m phase (left - 1) :=
  if_pos h

theorem ChanState.advance_pulse_off_last (v a b m : Byte) :
    (ChanState.pulse v a b m .off 1).advance = .pulse v a b m .on a :=
  rfl

theorem ChanState.advance_pulse_on_end (v a b : Byte) : (ChanState.pulse v a b 1 .on 1).advance = .idle :=
  rfl

/-- R74: the periods left after an ON phase that is not the train's last; a train of count 0 never runs out. -/
def periodsAfter (m : Byte) : Byte := if m = 0 then 0 else m - 1

theorem ChanState.advance_pulse_on_last {m : Byte} (h : m ≠ 1) (v a b : Byte) :
    (ChanState.pulse v a b m .on 1).advance = .pulse v a b (periodsAfter m) .off b := by
  by_cases hm : m = 0
  · subst hm
    rfl
  · rw [periodsAfter, if_neg hm]
    exact (if_neg h).trans (if_neg hm)

/-! ## The level of a ramp (R72) -/

/-- R72: the level at step k as the rule writes it, a whole number that is not yet cut to a byte. -/
def rampExact (start target n : Byte) (k : Nat) : Int :=
  start.toNat + ((target.toNat - start.toNat : Int) * k).tdiv n.toNat

/-- The k-th of n parts of a distance lies within the distance, and below its exact quotient. -/
theorem tdiv_share_of_nonneg {d : Int} (hd : 0 ≤ d) {k n : Nat} (hn : 0 < n) (hk : k ≤ n) :
    0 ≤ (d * k).tdiv n ∧ (d * k).tdiv n ≤ d ∧ n * (d * k).tdiv n ≤ d * k := by
  have hshare : 0 ≤ d * k := by positivity
  rw [Int.tdiv_eq_ediv_of_nonneg hshare]
  refine ⟨by positivity, ?_, Int.mul_ediv_self_le (by omega)⟩
  exact Int.ediv_le_of_le_mul (by omega) (mul_le_mul_of_nonneg_left (by omega) hd)

theorem rampExact_of_rise {start target n : Byte} {k : Nat} (h : start.toNat ≤ target.toNat) (hn : 0 < n.toNat)
    (hk : k ≤ n.toNat) :
    start.toNat ≤ rampExact start target n k ∧ rampExact start target n k ≤ target.toNat ∧
      n.toNat * (rampExact start target n k - start.toNat) ≤ (target.toNat - start.toNat : Int) * k := by
  obtain ⟨hlow, hhigh, hside⟩ := tdiv_share_of_nonneg (d := target.toNat - start.toNat) (by omega) hn hk
  rw [rampExact, add_sub_cancel_left]
  exact ⟨by omega, by omega, hside⟩

/-- A falling ramp is a rise by the opposite distance: the truncated quotient only changes its sign. -/
theorem rampExact_of_fall {start target n : Byte} {k : Nat} (h : target.toNat ≤ start.toNat) (hn : 0 < n.toNat)
    (hk : k ≤ n.toNat) :
    target.toNat ≤ rampExact start target n k ∧ rampExact start target n k ≤ start.toNat ∧
      (target.toNat - start.toNat : Int) * k ≤ n.toNat * (rampExact start target n k - start.toNat) := by
  obtain ⟨hlow, hhigh, hside⟩ := tdiv_share_of_nonneg (d := start.toNat - target.toNat) (by omega) hn hk
  rw [rampExact, add_sub_cancel_left, ← neg_sub (start.toNat : Int), neg_mul, Int.neg_tdiv, mul_neg]
  exact ⟨by omega, by omega, neg_le_neg hside⟩

theorem rampExact_between {n : Byte} {k : Nat} (hn : 0 < n.toNat) (hk : k ≤ n.toNat) (start target : Byte) :
    ((min start.toNat target.toNat : Nat) : Int) ≤ rampExact start target n k ∧
      rampExact start target n k ≤ (max start.toNat target.toNat : Nat) := by
  rcases Nat.le_total start.toNat target.toNat with h | h
  · obtain ⟨hlow, hhigh, -⟩ := rampExact_of_rise h hn hk
    omega
  · obtain ⟨hlow, hhigh, -⟩ := rampExact_of_fall h hn hk
    omega

/-- R72: no level of a ramp is cut when it becomes a byte. -/
theorem rampLevel_toNat {n step : Byte} (hn : 0 < n.toNat) (hstep : step.toNat ≤ n.toNat) (start target : Byte) :
    ((rampLevel start target n step).toNat : Int) = rampExact start target n step.toNat := by
  obtain ⟨hlow, hhigh⟩ := rampExact_between hn hstep start target
  have hbyte : rampLevel start target n step = BitVec.ofInt 8 (rampExact start target n step.toNat) := rfl
  rw [hbyte, BitVec.toNat_ofInt]
  omega

/-! ## The course of a ramp (R72) -/

/-- R72: before its last step a ramp stands at its k-th level; at step 0 it still shows the level it was applied with. -/
theorem ChanState.iterate_advance_ramp (level start target : Byte) {n : Byte} {k : Nat} (hk : k < n.toNat) :
    advance^[k] (.ramp level start target n 0) =
      .ramp (if k = 0 then level else rampLevel start target n (BitVec.ofNat 8 k)) start target n
        (BitVec.ofNat 8 k) := by
  induction k with
  | zero => rfl
  | succ k ih =>
    have hlt : (BitVec.ofNat 8 k).toNat + 1 < n.toNat := by
      rw [BitVec.toNat_ofNat]
      omega
    rw [Function.iterate_succ_apply', ih (by omega), advance_ramp_of_lt hlt, if_neg k.succ_ne_zero, BitVec.ofNat_add]
    rfl

/-- R72: the last step of a ramp lands on its target. -/
theorem ChanState.iterate_advance_ramp_last (level start target : Byte) {n : Byte} (hn : 1 ≤ n.toNat) :
    advance^[n.toNat] (.ramp level start target n 0) = .hold target := by
  obtain ⟨k, hk⟩ := Nat.exists_eq_add_of_le' hn
  have hlast : n.toNat ≤ (BitVec.ofNat 8 k).toNat + 1 := by
    rw [BitVec.toNat_ofNat]
    omega
  rw [hk, Function.iterate_succ_apply', iterate_advance_ramp level start target (by omega), advance_ramp_of_last hlast]

/-- Settles O15: one advance by its two equations, the whole course by induction on the advances; the bounds are those
of `rampExact`, split into a rising and a falling ramp. -/
theorem rampRunsToTarget : Obligations.RampRunsToTarget := by
  intro start target n level exact
  refine ⟨fun k hk => ?step, fun k hk => ChanState.advance_ramp_of_last hk.ge level start target,
    fun k hpos hk => ?course, ChanState.iterate_advance_ramp_last level start target⟩
  case step =>
    have hnext : (k + 1).toNat = k.toNat + 1 := by bv_omega
    refine ⟨_, ?_, ChanState.advance_ramp_of_lt hk level start target⟩
    rw [rampLevel_toNat (by omega) (by omega), hnext]
    rfl
  case course =>
    have hn : 0 < n.toNat := by omega
    have hstep : (BitVec.ofNat 8 k).toNat = k := by
      rw [BitVec.toNat_ofNat]
      omega
    have hlevel : ((rampLevel start target n (BitVec.ofNat 8 k)).toNat : Int) = rampExact start target n k := by
      rw [rampLevel_toNat hn (by omega), hstep]
    obtain ⟨hlow, hhigh⟩ := rampExact_between hn hk.le start target
    have hcourse := ChanState.iterate_advance_ramp level start target hk
    rw [if_neg (by omega)] at hcourse
    refine ⟨_, hlevel, hcourse, by omega, by omega, fun hrise => ?_, fun hfall => ?_⟩
    · obtain ⟨-, -, hside⟩ := rampExact_of_rise hrise hn hk.le
      exact hside
    · obtain ⟨-, -, hside⟩ := rampExact_of_fall hfall hn hk.le
      exact hside

/-! ## The phases and periods of a pulse train (R74) -/

/-- R74: the count goes down by 1 at each period, and 0 stays 0. -/
@[simp] theorem periodsAfter_toNat (m : Byte) : (periodsAfter m).toNat = m.toNat - 1 := by
  by_cases hm : m = 0
  · subst hm
    rfl
  · have hpos : 1 ≤ m.toNat := by bv_omega
    rw [periodsAfter, if_neg hm]
    exact BitVec.toNat_sub_of_le hpos

theorem iterate_periodsAfter_toNat (m : Byte) (q : Nat) : (periodsAfter^[q] m).toNat = m.toNat - q := by
  induction q with
  | zero => rfl
  | succ q ih => rw [Function.iterate_succ_apply', periodsAfter_toNat, ih, Nat.sub_sub]

/-- R74: only the last of the counted periods has one period to go. -/
theorem iterate_periodsAfter_eq_one_iff (m : Byte) (q : Nat) : periodsAfter^[q] m = 1 ↔ q + 1 = m.toNat := by
  have hone : (1 : Byte).toNat = 1 := rfl
  rw [BitVec.toNat_eq, iterate_periodsAfter_toNat, hone]
  omega

theorem ChanState.iterate_advance_pulse_phase {left : Byte} {i : Nat} (h : i < left.toNat) (v a b m : Byte)
    (phase : Phase) :
    advance^[i] (.pulse v a b m phase left) = .pulse v a b m phase (left - BitVec.ofNat 8 i) := by
  induction i with
  | zero => simp
  | succ i ih =>
    have hmore : 1 < (left - BitVec.ofNat 8 i).toNat := by bv_omega
    have hnext : left - BitVec.ofNat 8 i - 1 = left - BitVec.ofNat 8 (i + 1) := by bv_omega
    rw [Function.iterate_succ_apply', ih (by omega), advance_pulse_of_lt hmore, hnext]

/-- R74: a phase with `left` slot beginnings to go changes at the last of them. -/
theorem ChanState.iterate_advance_pulse_phase_end {left : Byte} (h : left ≠ 0) (v a b m : Byte) (phase : Phase) :
    advance^[left.toNat] (.pulse v a b m phase left) = (ChanState.pulse v a b m phase 1).advance := by
  have hpos : 1 ≤ left.toNat := by bv_omega
  obtain ⟨i, hi⟩ := Nat.exists_eq_add_of_le' hpos
  have hlast : left - BitVec.ofNat 8 i = 1 := by bv_omega
  rw [hi, Function.iterate_succ_apply', iterate_advance_pulse_phase (by omega), hlast]

section Train

variable {v a b m : Byte} (ha : a ≠ 0) (hb : b ≠ 0)

include ha in
/-- R74: an ON phase that is not the train's last gives way to the OFF phase. -/
theorem ChanState.iterate_advance_pulse_on (hm : m ≠ 1) :
    advance^[a.toNat] (.pulse v a b m .on a) = .pulse v a b (periodsAfter m) .off b := by
  rw [iterate_advance_pulse_phase_end ha, advance_pulse_on_last hm]

include ha hb in
theorem ChanState.iterate_advance_pulse_period (hm : m ≠ 1) :
    advance^[a.toNat + b.toNat] (.pulse v a b m .on a) = .pulse v a b (periodsAfter m) .on a := by
  rw [Nat.add_comm, Function.iterate_add_apply, iterate_advance_pulse_on ha hm, iterate_advance_pulse_phase_end hb,
    advance_pulse_off_last]

include ha hb in
/-- R74: as long as the count lasts, each period starts as the first did, with one period fewer to go. -/
theorem ChanState.iterate_advance_pulse_periods {q : Nat} (hq : m = 0 ∨ q < m.toNat) :
    advance^[(a.toNat + b.toNat) * q] (.pulse v a b m .on a) = .pulse v a b (periodsAfter^[q] m) .on a := by
  induction q with
  | zero => rfl
  | succ q ih =>
    have hnotLast : periodsAfter^[q] m ≠ 1 := by
      rw [Ne, iterate_periodsAfter_eq_one_iff]
      bv_omega
    rw [Nat.mul_succ, Nat.add_comm, Function.iterate_add_apply, ih (hq.imp_right Nat.lt_of_succ_lt),
      iterate_advance_pulse_period ha hb hnotLast, Function.iterate_succ_apply']

include ha in
/-- R74: a train is ON for the first a slot beginnings of a period and OFF for the others. -/
theorem ChanState.iterate_advance_pulse_in_period {r : Nat} (hr : r < a.toNat + b.toNat)
    (hm : r < a.toNat ∨ m ≠ 1) :
    ∃ left phaseLeft, advance^[r] (.pulse v a b m .on a) =
      .pulse v a b left (if r < a.toNat then .on else .off) phaseLeft := by
  by_cases hon : r < a.toNat
  · exact ⟨m, _, by rw [if_pos hon, iterate_advance_pulse_phase hon]⟩
  · obtain ⟨i, rfl⟩ := Nat.exists_eq_add_of_le' (Nat.not_lt.1 hon)
    refine ⟨periodsAfter m, b - BitVec.ofNat 8 i, ?_⟩
    rw [if_neg hon, Function.iterate_add_apply, iterate_advance_pulse_on ha (hm.resolve_left hon),
      iterate_advance_pulse_phase (by omega)]

/-- R74: a train of m periods lasts m − 1 whole periods and one ON phase. -/
theorem train_length {m : Nat} (hm : m ≠ 0) (a b : Nat) : m * a + (m - 1) * b = a + (a + b) * (m - 1) := by
  obtain ⟨k, rfl⟩ := Nat.exists_eq_add_one_of_ne_zero hm
  rw [Nat.add_sub_cancel]
  ring

/-- R74: where a train of `m` periods stands before its end: in a period before the last, or in the last one's ON
phase. -/
theorem train_place {a b m q r : Nat} (hj : r + (a + b) * q < m * a + (m - 1) * b) :
    q < m ∧ (q + 1 = m → r < a) := by
  have hm : m ≠ 0 := by
    rintro rfl
    omega
  obtain ⟨k, rfl⟩ := Nat.exists_eq_add_one_of_ne_zero hm
  rw [train_length hm, Nat.add_sub_cancel] at hj
  refine ⟨Nat.lt_of_mul_lt_mul_left (a := a + b) (by rw [Nat.mul_succ]; omega), fun hlast => ?_⟩
  rw [Nat.succ.inj hlast] at hj
  omega

include ha hb in
/-- R74: until it ends, the train stands in its period `j / (a + b)` at the place `j % (a + b)`. -/
theorem ChanState.iterate_advance_train {j : Nat}
    (hj : m = 0 ∨ j < m.toNat * a.toNat + (m.toNat - 1) * b.toNat) :
    ∃ left phaseLeft, advance^[j] (.pulse v a b m .on a) =
      .pulse v a b left (if j % (a.toNat + b.toNat) < a.toNat then .on else .off) phaseLeft := by
  have hr : j % (a.toNat + b.toNat) < a.toNat + b.toNat := Nat.mod_lt _ (by bv_omega)
  have hplace := Nat.mod_add_div j (a.toNat + b.toNat)
  have hbefore : m = 0 ∨ j / (a.toNat + b.toNat) < m.toNat ∧
      (j / (a.toNat + b.toNat) + 1 = m.toNat → j % (a.toNat + b.toNat) < a.toNat) :=
    hj.imp_right fun hj => train_place (hplace.symm ▸ hj)
  have hphase : j % (a.toNat + b.toNat) < a.toNat ∨ periodsAfter^[j / (a.toNat + b.toNat)] m ≠ 1 := by
    rw [Ne, iterate_periodsAfter_eq_one_iff, or_iff_not_imp_right, not_not]
    intro hlast
    have hm : m ≠ 0 := by
      rintro rfl
      exact Nat.succ_ne_zero _ hlast
    exact (hbefore.resolve_left hm).2 hlast
  obtain ⟨left, phaseLeft, hin⟩ := iterate_advance_pulse_in_period (v := v) ha hr hphase
  refine ⟨left, phaseLeft, ?_⟩
  rw [← hin, ← iterate_advance_pulse_periods ha hb (hbefore.imp_right And.left), ← Function.iterate_add_apply, hplace]

include ha hb in
/-- R74: the last period has no OFF phase: the train enters IDLE where its ON phase ends. -/
theorem ChanState.iterate_advance_train_end (hm : m ≠ 0) :
    advance^[m.toNat * a.toNat + (m.toNat - 1) * b.toNat] (.pulse v a b m .on a) = .idle := by
  have hcount : m.toNat ≠ 0 := by bv_omega
  have hlast : periodsAfter^[m.toNat - 1] m = 1 := (iterate_periodsAfter_eq_one_iff m _).2 (by omega)
  rw [train_length hcount, Function.iterate_add_apply, iterate_advance_pulse_periods ha hb (Or.inr (by omega)), hlast,
    iterate_advance_pulse_phase_end ha, advance_pulse_on_end]

end Train

/-- R73, R74: a train shows its on level in phase ON and 0 in phase OFF. -/
theorem ChanState.level_pulse_ite (on : Prop) [Decidable on] (v a b m left : Byte) :
    (ChanState.pulse v a b m (if on then .on else .off) left).level = if on then v else 0 := by
  split_ifs <;> rfl

/-- Settles O16: one advance by the equations of `advance`; the whole course by the train's place in its periods, each
period run phase by phase. -/
theorem pulseTrainRuns : Obligations.PulseTrainRuns := by
  intro v a b m ha hb
  refine ⟨fun phase left h => ChanState.advance_pulse_of_lt h v a b m phase, ChanState.advance_pulse_on_end v a b,
    ChanState.advance_pulse_on_last (by decide) v a b, fun hm => ?more, ChanState.advance_pulse_off_last v a b m,
    fun j hj => ?course, ChanState.iterate_advance_train_end ha hb⟩
  case more =>
    have hcount : m ≠ 0 ∧ m ≠ 1 := by constructor <;> bv_omega
    rw [ChanState.advance_pulse_on_last hcount.2, periodsAfter, if_neg hcount.1]
  case course =>
    obtain ⟨left, phaseLeft, hstand⟩ := ChanState.iterate_advance_train (v := v) ha hb hj
    rw [hstand]
    exact ⟨⟨left, _, phaseLeft, rfl⟩, ChanState.level_pulse_ite _ v a b left phaseLeft⟩

end Sys2Proof.Machine
end

