-- ==== Sys2Proof/Proofs/Outbox.lean ====
section
/-! PROOFS. The outbox: the table by which a verdict replaces an earlier one, the answer map after an answer is put into it, the one entry of a kind and serial in a lawful outbox and a sweep that touches that entry only, and the statement about the answers of an entry assembled from these. -/

namespace Sys2Proof.Machine

/-! ## The table of R97 -/

@[simp] theorem takeVerdict_none (v : Verdict) : takeVerdict none v = some v := rfl

/-- R97: DUPLICATE keeps the verdict that stood before. -/
@[simp] theorem takeVerdict_duplicate (old : Verdict) : takeVerdict (some old) .duplicate = some old := rfl

/-- R97: QUEUE_FULL never displaces a verdict. -/
@[simp] theorem takeVerdict_queueFull (old : Verdict) : takeVerdict (some old) .queueFull = some old := by
  cases old <;> rfl

/-- R97: any other verdict replaces what stood before. -/
theorem takeVerdict_replaces {v : Verdict} (hdup : v ≠ .duplicate) (hfull : v ≠ .queueFull) (old : Verdict) :
    takeVerdict (some old) v = some v := by
  cases v with
  | duplicate => exact absurd rfl hdup
  | queueFull => exact absurd rfl hfull
  | accepted | notMine | cancelled | tooLate | unknown => cases old <;> rfl

/-- R97: a verdict is never lost; after one is taken, one stands. -/
theorem exists_takeVerdict_eq_some (before : Option Verdict) (v : Verdict) : ∃ w, takeVerdict before v = some w := by
  cases before with
  | none => exact ⟨v, rfl⟩
  | some old =>
    by_cases hdup : v = .duplicate
    · exact ⟨old, hdup ▸ takeVerdict_duplicate old⟩
    · by_cases hfull : v = .queueFull
      · exact ⟨old, hfull ▸ takeVerdict_queueFull old⟩
      · exact ⟨v, takeVerdict_replaces hdup hfull old⟩

/-! ## The answer map -/

@[simp] theorem answerOf_cons (a : Station × Verdict) (as : List (Station × Verdict)) (y : Station) :
    answerOf (a :: as) y = if a.1 = y then some a.2 else answerOf as y := by
  by_cases h : a.1 = y <;> simp [answerOf, h]

@[simp] theorem answerOf_putAnswer_self (z : Station) (v : Verdict) (as : List (Station × Verdict)) :
    answerOf (putAnswer z v as) z = some v := by
  induction as with
  | nil => simp [putAnswer]
  | cons a as ih =>
    unfold putAnswer
    split_ifs with hsame
    · simp
    · simp
    · simp [hsame, ih]

/-- The other stations keep their answers. -/
theorem answerOf_putAnswer_of_ne {y z : Station} (h : y ≠ z) (v : Verdict) (as : List (Station × Verdict)) :
    answerOf (putAnswer z v as) y = answerOf as y := by
  induction as with
  | nil => simp [putAnswer, h.symm]
  | cons a as ih =>
    unfold putAnswer
    split_ifs with hsame
    · simp [hsame, h.symm]
    · simp [h.symm]
    · simp [ih]

/-- R97: the answers of an entry after an answer by station `z`. -/
theorem SendData.answerOf_answer (d : SendData) (z y : Station) (v : Verdict) :
    answerOf (d.answer z v).answers y =
      if y = z then takeVerdict (answerOf d.answers z) v else answerOf d.answers y := by
  obtain ⟨w, hw⟩ := exists_takeVerdict_eq_some (answerOf d.answers z) v
  by_cases hy : y = z
  · simp [SendData.answer, hw, hy]
  · simp [SendData.answer, hw, hy, answerOf_putAnswer_of_ne hy]

/-! ## The one entry of a kind and serial (R84) -/

theorem OutEntry.named_iff {e : OutEntry} {kind : CueKind} {n : Serial} :
    e.named kind n = true ↔ e.cueKind = kind ∧ e.serial = n := by
  simp [OutEntry.named]

/-- The entry found is an open entry of the kind and serial looked up. -/
theorem Outbox.find_spec {o : Outbox} {kind : CueKind} {n : Serial} {e : OutEntry} (he : o.find kind n = some e) :
    e ∈ o.entries ∧ e.cueKind = kind ∧ e.serial = n := by
  unfold Outbox.find at he
  have hnamed : e.named kind n = true := List.find?_some (p := fun x : OutEntry => x.named kind n) he
  exact ⟨List.mem_of_find?_eq_some he, OutEntry.named_iff.1 hnamed⟩

/-- R84: the entry that the lookup meets first is the only one of its kind and serial. -/
theorem Outbox.named_iff_eq_of_find {o : Outbox} (ho : o.Lawful) {kind : CueKind} {n : Serial} {e : OutEntry}
    (he : o.find kind n = some e) {x : OutEntry} (hx : x ∈ o.entries) : x.named kind n = true ↔ x = e := by
  obtain ⟨hmem, hkind, hserial⟩ := Outbox.find_spec he
  constructor
  · intro h
    obtain ⟨hxkind, hxserial⟩ := OutEntry.named_iff.1 h
    exact List.inj_on_of_nodup_map ho.distinct hx hmem (by rw [hxkind, hxserial, hkind, hserial])
  · rintro rfl
    exact OutEntry.named_iff.2 ⟨hkind, hserial⟩

/-- R84: the entries of the kind and serial looked up are the entry found. -/
theorem Outbox.filter_named_of_find {o : Outbox} (ho : o.Lawful) {kind : CueKind} {n : Serial} {e : OutEntry}
    (he : o.find kind n = some e) : (o.entries.filter fun x => x.named kind n) = [e] := by
  have hone : o.entries.count e = 1 :=
    List.count_eq_one_of_mem (List.Nodup.of_map _ ho.distinct) (Outbox.find_spec he).1
  calc (o.entries.filter fun x => x.named kind n)
      = o.entries.filter fun x => x = e :=
        List.filter_congr fun x hx => by rw [Bool.eq_iff_iff, decide_eq_true_iff, o.named_iff_eq_of_find ho he hx]
    _ = [e] := by rw [List.filter_eq, hone, List.replicate_one]

/-! ## A sweep that touches one entry -/

section OneEntry
variable {s : State} {kind : CueKind} {n : Serial} {e e' : OutEntry} {f : OutEntry → OutEntry × Option Outcome}

/-- In a lawful outbox what happens to the entry of a kind and serial happens to the entry found. -/
theorem onEntry_of_find (hob : s.ob.Lawful) (he : s.ob.find kind n = some e) {x : OutEntry} (hx : x ∈ s.ob.entries) :
    onEntry kind n f x = if x.named kind n then f e else (x, none) := by
  unfold onEntry
  split_ifs with hnamed
  · rw [(s.ob.named_iff_eq_of_find hob he hx).1 hnamed]
  · rfl

/-- An entry that the sweep leaves open is changed in its place, and no record is offered. -/
theorem State.sweepOutbox_onEntry_stays (hob : s.ob.Lawful) (he : s.ob.find kind n = some e) (hf : f e = (e', none)) :
    s.sweepOutbox (onEntry kind n f) =
      { s with ob := { s.ob with entries := s.ob.entries.map fun x => if x.named kind n then e' else x } } := by
  have hentry : ∀ x ∈ s.ob.entries, onEntry kind n f x = (if x.named kind n then e' else x, none) := by
    intro x hx
    rw [onEntry_of_find hob he hx, hf]
    split_ifs <;> rfl
  have hmap : (s.ob.entries.map fun x => (onEntry kind n f x).1) =
      s.ob.entries.map fun x => if x.named kind n then e' else x :=
    List.map_congr_left fun x hx => by rw [hentry x hx]
  rw [State.sweepOutbox, sweep_map fun x hx => by rw [hentry x hx], State.offers_nil, hmap]

/-- R102: an entry that the sweep closes leaves the outbox, and its COVERAGE record is offered. -/
theorem State.sweepOutbox_onEntry_closes (hob : s.ob.Lawful) (he : s.ob.find kind n = some e) {o : Outcome}
    (hf : f e = (e', some o)) :
    s.sweepOutbox (onEntry kind n f) =
      { s with ob := { s.ob with entries := s.ob.entries.filter fun x => !x.named kind n }
               ev := s.ev.offers [e'.coverage o] } := by
  have hentry : ∀ x ∈ s.ob.entries, onEntry kind n f x = if x.named kind n then (e', some o) else (x, none) :=
    fun x hx => by rw [onEntry_of_find hob he hx, hf]
  have hleft : (s.ob.entries.filterMap fun x =>
      if (onEntry kind n f x).2.isNone then some (onEntry kind n f x).1 else none) =
      s.ob.entries.filter fun x => !x.named kind n := by
    rw [← List.filterMap_eq_filter]
    refine List.filterMap_congr fun x hx => ?_
    cases hnamed : x.named kind n <;> simp [hentry x hx, hnamed, Option.guard]
  have hrecords : (s.ob.entries.filterMap fun x => (onEntry kind n f x).2.map (onEntry kind n f x).1.coverage) =
      [e'.coverage o] := by
    calc _ = s.ob.entries.filterMap fun x => if x.named kind n then some (e'.coverage o) else none :=
          List.filterMap_congr fun x hx => by cases hnamed : x.named kind n <;> simp [hentry x hx, hnamed]
      _ = (s.ob.entries.filter fun x => x.named kind n).filterMap fun _ => some (e'.coverage o) := by
          simp [List.filterMap_filter]
      _ = [e'.coverage o] := by rw [s.ob.filter_named_of_find hob he]; rfl
  rw [State.sweepOutbox_eq, hleft, hrecords]

end OneEntry

/-! ## An acknowledgement taken -/

/-- R98: an entry on the line closes COMPLETE when nobody is unanswered. -/
theorem OutEntry.settle_of_sent {e : OutEntry} {d : SendData} (hd : e.send = some d) :
    e.settle = (e, if e.unanswered = [] then some .complete else none) := by
  simp [OutEntry.settle, OutEntry.complete, hd]

/-- R96: an entry takes acknowledgements from the stations it expects. -/
theorem OutEntry.awaits_iff {e : OutEntry} {d : SendData} (hd : e.send = some d) {z : Station} :
    e.awaits z = true ↔ z ∈ d.expected := by
  simp [OutEntry.awaits, hd]

/-- R96 to R98: an ACK item from an expected station is taken into the answers of the entry it names. -/
theorem State.takeAck_of_awaited {s : State} {z : Station} {n : Serial} {v : Verdict} {e : OutEntry} {d : SendData}
    (he : s.ob.find v.kind n = some e) (hd : e.send = some d) (hz : z ∈ d.expected) :
    s.takeAck z n v = s.sweepOutbox (onEntry v.kind n fun e =>
      { e with send := e.send.map fun d => SendData.answer d z v }.settle) := by
  simp only [State.takeAck, he, (OutEntry.awaits_iff hd).2 hz, if_true]

/-- Settles O12: the table by its equations, the answer map by the answer put into it, and the check of R98 by the sweep
of the one entry named, which stays or closes. -/
theorem answersReplaceByTable : Obligations.AnswersReplaceByTable := by
  refine ⟨takeVerdict_none, takeVerdict_duplicate, fun old _ => takeVerdict_queueFull old, takeVerdict_queueFull _,
    fun old v hdup hfull => takeVerdict_replaces hdup hfull old, fun d z y v _ => d.answerOf_answer z y v,
    fun _ _ => rfl, ?ack⟩
  case ack =>
    intro s z n v e d hob he hd hz answered
    have hsettle : ({ e with send := e.send.map fun d => SendData.answer d z v } : OutEntry).settle =
        (answered, if answered.unanswered = [] then some .complete else none) := by
      rw [hd]
      exact OutEntry.settle_of_sent rfl
    rw [State.takeAck_of_awaited he hd hz]
    split_ifs at hsettle ⊢ with hall
    · exact State.sweepOutbox_onEntry_closes hob he hsettle
    · exact State.sweepOutbox_onEntry_stays hob he hsettle

end Sys2Proof.Machine
end

section
/-! PROOFS. What the rows of the table do, said once: the operations that a command comes down to when its guards are met, a principle by which a condition that each of these keeps is kept by every command and every step, and the statement that every command answers a next state. -/

namespace Sys2Proof.Machine

/-! ## The principle -/

/-- A relation between a state and the one after it that the effect of every row is in, each effect taken with the guards
under which its row has it, and a reset and a CONFIGURE with the rows that have them. -/
structure RowEffects (c : Instr) (R : State → State → Prop) : Prop where
  reset : (c = .powerOnReset ∨ c = .pinReset ∨ ∃ rest tail a b, c = .reset rest tail a b) → ∀ s reason,
    R s (s.resetCondition reason)
  configure : (∃ rest tail, c = .configure rest tail) → ∀ s p im, s.sc.state = .config → Image.ofBytes p = .ok im →
    R s (s.configureWith im)
  start : ∀ s im, s.sc.state = .config → s.sc.image = some im → R s (s.startUp im)
  leave : ∀ s, s.sc.state.talking = true → R s s.leaveLine
  join : ∀ s, s.sc.state = .quiet →
    R s ({ s with sc := { s.sc with talkIntent := true } }.changeState .claiming .join)
  submit : ∀ s p t, s.sc.state.talking = true → CueTemplate.ofBytes s.slots p = some t → s.ob.full = false →
    R s { s with ob := s.ob.submit t .host }
  cancel : ∀ s n, R s (s.cancelSerial n).2
  takeEvents : ∀ s n, R s { s with ev := s.ev.take n }
  zeroCounters : ∀ s, R s { s with counters := .zero }
  drive : ∀ s p c a, driveAction p = some a → (a.running = true → s.sc.state.cyclesRun = true) →
    R s { s with cg := s.cg.drive c a }
  bind : ∀ s p i edge t, CueTemplate.ofBytes s.slots p = some t →
    R s (s.setTrigger i { s.trigger i with binding := some { edge := edge, template := t } })
  unbind : ∀ s i, R s (s.setTrigger i { s.trigger i with binding := none })
  edge : ∀ s i, R s (s.edge i)
  period : ∀ s, R s { s with cg := s.cg.periodStart }
  expiry : ∀ s, s.sc.state = .listening → s.ct.phase = .waiting →
    R s { s with ct := s.ct.participate s.ct.selfProposal 0, lc := s.lc.pulse 0 }
  opens : ∀ s, s.windowOpen = true → R s (s.beginOpening 0)
  deferred : ∀ s, s.listens = true → s.slot.ended = true → s.ct.slotIndex = some (s.slots - 1) →
    R s ((s.countFormat.note .invalid).judge.beginOpening 10)
  pulseRelease : ∀ s o, s.ct.opening = some o → s.ct.phase = .opening → s.ct.role = .participant → o.stage = .pulse →
    R s { s with ct := { s.ct with position := some 12, opening := some { o with stage := .number } }
                 lc := s.lc.pulseEnd (s.ct.position.getD 0) }
  noEcho : ∀ s o, s.ct.opening = some o → s.sc.state.onLine = true → s.ct.phase = .opening →
    s.ct.role = .participant → o.stage = .pulse →
    R s { s.enterLineFault .noEcho with lc := (s.enterLineFault .noEcho).lc.runEnd }
  pulse : ∀ s run inWindow, R s (s.recognizePulse run inWindow)
  numberLoss : ∀ s o, s.ct.opening = some o → s.ct.phase = .opening → s.ct.role = .participant → o.stage = .number →
    R s { s with ct := { s.ct with opening := some { o with lost := true } }
                 lc := { s.lc with arbitration := .lost, drive := .released } }
  numberEnd : ∀ s o read mismatch, s.ct.opening = some o → s.ct.phase = .opening → o.stage = .number →
    R s (s.endNumberField o read mismatch)
  shapeEnd : ∀ s o shape, s.ct.opening = some o → s.ct.phase = .opening → o.stage = .shape → R s (s.endShape o shape)
  damage : ∀ s, R s s.damageOpening
  slotBegin : ∀ s slot, s.nextSlot = some slot → R s (s.beginSlot slot)
  slotEnd : ∀ s slot late, s.ct.slotIndex = some slot → s.sc.state.cyclesRun = true → s.ct.phase = .slots →
    s.slot.judged = false → s.fb.transmission = none → R s (s.endSlot slot late)
  frameDone : ∀ s f slot, s.fb.transmission = some f → f.kind = .slot slot → R s (s.frameDone slot f)
  frameBroken : ∀ s f slot, s.fb.transmission = some f → f.kind = .slot slot → R s (s.frameBroken slot f)
  frameBeaten : ∀ s f slot, s.fb.transmission = some f → f.kind = .slot slot → R s (s.frameBeaten slot f)
  claimBeaten : ∀ s f r read, s.fb.transmission = some f → f.kind = .claim r →
    R s { s.countClaimLoss.endFrame .arbitrationLost with
      lc := (s.countClaimLoss.endFrame .arbitrationLost).lc.hearOn 0 s.lc.overheard read }
  claimBroken : ∀ s f r, s.fb.transmission = some f → f.kind = .claim r → R s (s.countOwnFailure.endFrame .bitError)
  claimDone : ∀ s f r, s.fb.transmission = some f → f.kind = .claim r → R s (s.endFrame (.claimCompleted r))
  received : ∀ s bytes framingError, s.listens = true → R s (s.receive bytes framingError)
  lostAhead : ∀ s, s.listensAhead = true → R s s.lostAhead
  frameLost : ∀ s, s.listens = true → R s s.frameLost
  stray : ∀ s, s.countsStray = true → R s s.countFormat
  stuck : ∀ s, s.sc.state.onLine = true →
    R s { s.enterLineFault .stuck with lc := { (s.enterLineFault .stuck).lc with dominantRun := 40 } }
  stuckAgain : ∀ s, s.sc.state = .lineFault →
    R s ({ s with lc := { s.lc with dominantRun := 40, recessiveRun := 0 } }.offer
      (.lineFault .stuck .lineFault s.ct.cycle true))
  restored : ∀ s, s.sc.state = .lineFault →
    R s ((State.changeState { s with sc := { s.sc with faultReason := none }, ct := s.ct.wait s.listenTime
                                     lc := { s.lc with dominantRun := 0, recessiveRun := 64 } } .listening
      .restored).offer (.lineRestored s.ct.cycle s.ct.history))
  fallingEdge : ∀ s, s.sc.state = .lineFault → R s { s with lc := { s.lc with dominantRun := 0, recessiveRun := 0 } }

/-- A relation that holds where nothing happens and does not look at the host port and the reset sources; the pins' levels
may be sampled after a reset. -/
structure PortFree (R : State → State → Prop) : Prop where
  refl : ∀ s, R s s
  before : ∀ s hp t, R { s with hp := hp } t → R s t
  port : ∀ s t hp, R s t → R s { t with hp := hp }
  hold : ∀ s t hold, R s t → R s { t with hold := hold }
  pins : ∀ s t a b, R s t → R s (t.samplePins a b)

namespace RowEffects

variable {c : Instr} {R : State → State → Prop} {s : State}

/-! ## The host port's rows -/

theorem respond (p : PortFree R) {t : State} (h : R s t) (code : Byte) (status : Status) (data : List Byte) :
    R s (t.respond code status data) :=
  p.port s t _ h

theorem answer (p : PortFree R) (s : State) (code : Byte) (status : Status) (data : List Byte) :
    R s (s.respond code status data) :=
  respond p (p.refl s) ..

theorem selRise (p : PortFree R) (bs : List Byte) (tail : List Bool) {taken : State → State}
    (htaken : ∀ t, R t (taken t)) : R s (s.selRise bs tail taken) := by
  unfold State.selRise
  split
  · exact p.refl s
  · split
    · exact p.refl s
    · exact p.port s s _ (p.refl s)
    · exact p.before s _ _ (htaken _)

theorem command (p : PortFree R) (code : Byte) (expected : Nat) (rest : List Byte) (tail : List Bool)
    {taken : State → State} (htaken : ∀ t, R t (taken t)) : R s (s.command code expected rest tail taken) :=
  selRise p _ _ fun t => by
    split
    · exact answer p ..
    · exact htaken t

theorem gated (p : PortFree R) (code : Byte) {taken : State → State} (htaken : ∀ t, R t (taken t)) :
    R s (s.gated code taken) := by
  unfold State.gated
  split
  · exact answer p ..
  · exact htaken s

variable (k : RowEffects c R) (p : PortFree R)
include k p

theorem takeConfigure (hc : ∃ rest tail, c = .configure rest tail) (bs : List Byte) : R s (s.takeConfigure bs) := by
  unfold State.takeConfigure
  split
  · exact answer p ..
  · next hstate =>
    split
    · exact answer p ..
    · next im him => exact respond p (k.configure hc s bs im (not_not.1 hstate) him) ..

theorem takeStart : R s s.takeStart := by
  unfold State.takeStart
  split
  · exact answer p ..
  · next hc =>
    split
    · exact answer p ..
    · next im him => exact respond p (k.start s im (not_not.1 hc) him) ..

theorem takeLeave : R s s.takeLeave := by
  unfold State.takeLeave
  split
  · next ht => exact respond p (k.leave s ht) ..
  · exact answer p ..

theorem takeJoin : R s s.takeJoin := by
  unfold State.takeJoin
  split
  · exact answer p ..
  · next hq =>
    split
    · exact respond p (k.join s (not_not.1 hq)) ..
    · exact answer p ..

theorem takeSubmit (bs : List Byte) : R s (s.takeSubmit bs) := by
  unfold State.takeSubmit
  split
  · exact answer p ..
  · next ht =>
    split
    · exact answer p ..
    · next t hp =>
      split
      · exact answer p ..
      · next hf => exact respond p (k.submit s bs t (by simpa using ht) hp (by simpa using hf)) ..

theorem takeCancelCue (bs : List Byte) : R s (s.takeCancelCue bs) := by
  unfold State.takeCancelCue
  dsimp only
  split
  · exact answer p ..
  · exact respond p (k.cancel s _) ..

theorem takeDrive (bs : List Byte) : R s (s.takeDrive bs) := by
  unfold State.takeDrive
  split
  · dsimp only
    split
    · exact answer p ..
    · next a ha =>
      split
      · exact answer p ..
      · next hrun => exact respond p (k.drive s bs _ a ha (by simpa using hrun)) ..
  · exact answer p ..

theorem takeBind (bs : List Byte) : R s (s.takeBind bs) := by
  unfold State.takeBind
  split
  · split
    · exact answer p ..
    · next t ht => exact respond p (k.bind s _ _ _ t ht) ..
  · exact answer p ..

theorem takeUnbind (bs : List Byte) : R s (s.takeUnbind bs) := by
  unfold State.takeUnbind
  split
  · exact answer p ..
  · exact respond p (k.unbind s _) ..

theorem readEvents (n : Nat) : R s (if 1 ≤ n ∧ n ≤ 4 then s.takeEvents n else s.respond 0x20 .badIndex []) := by
  split
  · exact respond p (k.takeEvents s n) ..
  · exact answer p ..

/-! ## Every row -/

/-- What every row's effect is in, every command is in: the rows' guards peeled off one by one. -/
theorem exec {t : State} (hc : Machine.exec c s = .next t) : R s t := by
  cases c with
  | powerOnReset => cases hc; exact p.hold _ _ _ (k.reset (by simp) s _)
  | pinReset =>
    cases hc
    split
    · exact p.hold _ _ _ (p.refl s)
    · exact p.hold _ _ _ (k.reset (by simp) s _)
  | resetReleased a b selLow =>
    cases hc
    split
    · exact p.port s { s.samplePins a b with hold := { powerOn := false, pin := false } }
        { s.hp with transaction := if selLow then .ignored else .idle } (p.hold _ _ _ (p.pins s s a b (p.refl s)))
    · exact p.refl s
  | transactionOpen =>
    cases hc
    split
    · exact p.port s s _ (p.refl s)
    · exact p.refl s
  | emptyTransaction tail => cases hc; exact selRise p _ _ p.refl
  | unknownCommand code rest tail => cases hc; exact selRise p _ _ fun t => answer p t ..
  | nop rest tail => cases hc; exact command p _ _ _ _ fun t => answer p t ..
  | getStatus rest tail => cases hc; exact command p _ _ _ _ fun t => answer p t ..
  | configure rest tail => cases hc; exact command p _ _ _ _ fun _ => takeConfigure k p ⟨_, _, rfl⟩ _
  | start rest tail => cases hc; exact command p _ _ _ _ fun _ => takeStart k p
  | leave rest tail => cases hc; exact command p _ _ _ _ fun _ => takeLeave k p
  | join rest tail => cases hc; exact command p _ _ _ _ fun _ => takeJoin k p
  | reset rest tail a b =>
    cases hc; exact command p _ _ _ _ fun t => p.port _ _ _ (p.pins _ _ a b (k.reset (by simp) t _))
  | submitCue rest tail => cases hc; exact command p _ _ _ _ fun _ => takeSubmit k p _
  | cancelCue rest tail => cases hc; exact command p _ _ _ _ fun _ => takeCancelCue k p _
  | readEvents rest tail =>
    cases hc; exact command p _ _ _ _ fun _ => gated p _ fun _ => readEvents k p _
  | readSlots rest tail => cases hc; exact command p _ _ _ _ fun _ => gated p _ fun t => answer p t ..
  | readRoster rest tail => cases hc; exact command p _ _ _ _ fun _ => gated p _ fun t => answer p t ..
  | readQueue rest tail =>
    cases hc
    refine command p _ _ _ _ fun _ => gated p _ fun _ => ?_
    split <;> exact answer p _ ..
  | readOutbox rest tail =>
    cases hc
    refine command p _ _ _ _ fun _ => gated p _ fun _ => ?_
    split <;> exact answer p _ ..
  | readChannel rest tail =>
    cases hc
    refine command p _ _ _ _ fun _ => gated p _ fun _ => ?_
    split <;> exact answer p _ ..
  | readCounters rest tail =>
    cases hc; exact command p _ _ _ _ fun _ => gated p _ fun u => respond p (k.zeroCounters u) ..
  | driveChannel rest tail =>
    cases hc; exact command p _ _ _ _ fun _ => gated p _ fun _ => takeDrive k p _
  | bindTrigger rest tail =>
    cases hc; exact command p _ _ _ _ fun _ => gated p _ fun _ => takeBind k p _
  | unbindTrigger rest tail =>
    cases hc; exact command p _ _ _ _ fun _ => gated p _ fun _ => takeUnbind k p _
  | triggerEdge input =>
    cases hc
    split
    · exact p.refl s
    · exact k.edge s input
  | pwmPeriodStart =>
    cases hc
    split
    · exact p.refl s
    · exact k.period s
  | listenWindowExpiry =>
    cases hc
    split
    · next hg => exact k.expiry s hg.1 hg.2
    · exact p.refl s
  | openingBegins =>
    cases hc
    split
    · next hg => exact k.opens s hg
    · exact p.refl s
  | deferredOpeningEdge =>
    cases hc
    split
    · next hg =>
      simp only [Bool.and_eq_true, beq_iff_eq] at hg
      exact k.deferred s hg.1.1 hg.1.2 hg.2
    · exact p.refl s
  | openingPulseRelease =>
    cases hc
    split
    · exact p.refl s
    · next o ho =>
      split
      · next hg => exact k.pulseRelease s o ho hg.1 hg.2.1 hg.2.2
      · exact p.refl s
  | noEcho =>
    cases hc
    split
    · exact p.refl s
    · next o ho =>
      split
      · next hg => exact k.noEcho s o ho hg.1 hg.2.1 hg.2.2.1 hg.2.2.2
      · exact p.refl s
  | openingPulse run inWindow => cases hc; exact k.pulse s run inWindow
  | numberFieldEnd read mismatch =>
    cases hc
    split
    · exact p.refl s
    · next o ho =>
      split
      · next hg => exact k.numberEnd s o read mismatch ho hg.1 hg.2
      · exact p.refl s
  | openingEnds shape =>
    cases hc
    split
    · exact p.refl s
    · next o ho =>
      split
      · next hg => exact k.shapeEnd s o shape ho hg.1 hg.2
      · exact p.refl s
  | slotBegins =>
    cases hc
    split
    · exact p.refl s
    · next slot hslot => exact k.slotBegin s slot hslot
  | slotEnds late =>
    cases hc
    split
    · exact p.refl s
    · next slot hslot =>
      split
      · next hg => exact k.slotEnd s slot late hslot hg.1 hg.2.1 hg.2.2.1 hg.2.2.2
      · exact p.refl s
  | frameCompletes =>
    cases hc
    split
    · next hf => exact k.frameDone s _ _ hf rfl
    · exact p.refl s
    · exact p.refl s
  | bitError =>
    cases hc
    split
    · next hf => exact k.frameBroken s _ _ hf rfl
    · exact p.refl s
    · exact p.refl s
  | headerArbitrationLost =>
    cases hc
    split
    · next hf => exact k.frameBeaten s _ _ hf rfl
    · exact p.refl s
    · exact p.refl s
  | claimArbitrationLost read =>
    cases hc
    split
    · next hf => exact k.claimBeaten s _ _ read hf rfl
    · exact p.refl s
    · exact p.refl s
  | claimBitError =>
    cases hc
    split
    · next hf => exact k.claimBroken s _ _ hf rfl
    · exact p.refl s
    · exact p.refl s
  | claimCompletes =>
    cases hc
    split
    · next hf => exact k.claimDone s _ _ hf rfl
    · exact p.refl s
    · exact p.refl s
  | frameReceived bytes framingError =>
    cases hc
    split
    · next hl => exact k.received s _ _ hl
    · split
      · next hl => exact k.lostAhead s (Bool.and_eq_true_iff.1 hl).1
      · exact p.refl s
  | frameCutOff =>
    cases hc
    split
    · next hl => exact k.frameLost s (Bool.and_eq_true_iff.1 hl).1
    · exact p.refl s
  | byteGap =>
    cases hc
    split
    · exact k.damage s
    · split
      · next hl => exact k.frameLost s hl
      · split
        · next hl => exact k.lostAhead s hl
        · exact p.refl s
  | strayTraffic =>
    cases hc
    split
    · next hg => exact k.stray s hg
    · exact p.refl s
  | stuckLine =>
    cases hc
    split
    · next hg => exact k.stuck s hg
    · split
      · next hg => exact k.stuckAgain s hg
      · exact p.refl s
  | lineRestored =>
    cases hc
    split
    · next hg => exact k.restored s hg
    · exact p.refl s
  | ignoredTransactionEnd bytes tail =>
    cases hc
    split
    · exact selRise p _ _ p.refl
    · exact p.refl s
  | fallingEdgeInLineFault =>
    cases hc
    split
    · next hg => exact k.fallingEdge s hg
    · exact p.refl s
  | numberFieldArbitrationLoss =>
    cases hc
    split
    · exact p.refl s
    · next o ho =>
      split
      · next hg => exact k.numberLoss s o ho hg.1 hg.2.1 hg.2.2
      · exact p.refl s
  | openingFramingError => cases hc; exact k.damage s

end RowEffects

/-- A condition on the state that the effect of every row keeps, each taken with the guards under which its row has it.
The host port and the reset sources are in no such condition. -/
structure KeptByRows (P : State → Prop) : Prop where
  port : ∀ s hp, P s → P { s with hp := hp }
  hold : ∀ s hold, P s → P { s with hold := hold }
  pins : ∀ s a b, P s → P (s.samplePins a b)
  effects : ∀ c, RowEffects c fun s t => P s → P t

namespace KeptByRows

variable {P : State → Prop} {s : State}

/-- What every row's effect keeps, every command keeps. -/
theorem exec (k : KeptByRows P) {c : Instr} {t : State} (hc : Machine.exec c s = .next t) : P s → P t :=
  (k.effects c).exec
    { refl := fun _ h => h
      before := fun s hp _ h hs => h (k.port s hp hs)
      port := fun _ t hp h hs => k.port t hp (h hs)
      hold := fun _ t hold h hs => k.hold t hold (h hs)
      pins := fun _ t a b h hs => k.pins t a b (h hs) } hc

/-- What every row's effect, the bit time and the waiting of commands keep, every step keeps. -/
theorem step (k : KeptByRows P) (hqueue : ∀ s pending, P s → P { s with pending := pending })
    (htick : ∀ s, P s → P s.tick) {t : State} (hst : Machine.step s = .next t) (h : P s) : P t := by
  unfold Machine.step at hst
  split at hst
  · cases hst; exact htick s h
  · exact k.exec hst (hqueue s _ h)

end KeptByRows

/-! ## The statement -/

/-- Every command has a next state: each arm is a meaning. -/
theorem exists_exec_eq_next (c : Instr) (s : State) : ∃ t, exec c s = .next t := by
  cases c <;> exact ⟨_, rfl⟩

/-- R88 to R90: what CANCEL_CUE can do: the QUEUED entry closes, nothing happens, or a CANCEL entry is created where
there is room and none is open for the serial, with the CUE entry marked or with the own queue searched. -/
theorem State.cancelSerial_cases (s : State) (n : Serial) :
    (s.cancelSerial n).2 = s.sweepOutbox (onEntry .cue n OutEntry.withdraw) ∨ (s.cancelSerial n).2 = s ∨
    (s.ob.full = false ∧ s.ob.cancelOpen n = false ∧
      ((s.cancelSerial n).2 = { s with ob := s.ob.pend n } ∨
        (s.sc.state.talking = true ∧ (s.cancelSerial n).2 = s.cancelSent n))) := by
  unfold State.cancelSerial
  dsimp only
  split
  · exact .inl rfl
  · split
    · exact .inr (.inl rfl)
    · next hopen =>
      split
      · split
        · exact .inr (.inl rfl)
        · next hfull => exact .inr (.inr ⟨by simpa using hfull, by simpa using hopen, .inl rfl⟩)
      · split
        · exact .inr (.inl rfl)
        · next htalk =>
          split
          · exact .inr (.inl rfl)
          · next hfull => exact .inr (.inr ⟨by simpa using hfull, by simpa using hopen, .inr ⟨by simpa using htalk, rfl⟩⟩)

theorem State.cancelSerial_pending (s : State) (n : Serial) : (s.cancelSerial n).2.pending = s.pending := by
  rcases s.cancelSerial_cases n with h | h | ⟨-, -, h | ⟨-, h⟩⟩ <;> simp [h]

/-- The waiting commands are in no row's effect, by the frame of each operation. -/
theorem keptByRows_pending (q : List Instr) : KeptByRows fun t => t.pending = q where
  port _ _ h := h
  hold _ _ h := h
  pins _ _ _ h := h
  effects c := by
    constructor <;> intros <;> simp_all [State.cancelSerial_pending, State.resetCondition]

/-- Settles O1: a step on a queue that is not empty is the front command by definition, and the waiting commands are in
the frame of every operation. -/
theorem stepRunsFrontCommand : Obligations.StepRunsFrontCommand := by
  refine ⟨fun c rest s h => ?_, fun c s => ?_⟩
  · rw [step, h]
  · obtain ⟨t, ht⟩ := exists_exec_eq_next c s
    exact ⟨t, ht, (keptByRows_pending s.pending).exec ht rfl⟩

end Sys2Proof.Machine
end

section
/-! PROOFS. What the rows do to the station's collections, as small steps: one kind of step for each way in which the event queue, the counters, the cue queue, the outbox, the staging list, the channels and the bindings can change, and for every operation and every row the chain of such steps that it is. A law of these collections is then kept by every step once each kind of step keeps it. -/

namespace Sys2Proof.Machine

/-! ## The steps -/

/-- The parts of the state that the laws of the collections speak of. -/
def State.work (s : State) : StationState × Option Image × CueQueue × PerChannel ChanState × Outbox × List Staged ×
    EventQueue × Counters × Option Binding × Option Binding :=
  (s.sc.state, s.sc.image, s.cq, s.cg.channels, s.ob, s.fb.staging, s.ev, s.counters, s.trig0.binding, s.trig1.binding)

theorem State.work_eq_iff {s t : State} : t.work = s.work ↔
    t.sc.state = s.sc.state ∧ t.sc.image = s.sc.image ∧ t.cq = s.cq ∧ t.cg.channels = s.cg.channels ∧ t.ob = s.ob ∧
    t.fb.staging = s.fb.staging ∧ t.ev = s.ev ∧ t.counters = s.counters ∧ t.trig0.binding = s.trig0.binding ∧
    t.trig1.binding = s.trig1.binding := by
  simp [State.work]

/-- The actions that wait in the outbox and in the bindings are lawful (R86). -/
structure State.ActionsLawful (s : State) : Prop where
  entries : ∀ e ∈ s.ob.entries, ∀ t, e.template = some t → t.contents.action.Lawful
  bindings : ∀ i b, (s.trigger i).binding = some b → b.template.contents.action.Lawful

/-- The id and class of a staged verdict (R113). -/
def Staged.key (e : Staged) : CueId × CueKind := (e.id, e.verdict.kind)

/-- The kind and serial of an entry (R84). -/
def OutEntry.key (e : OutEntry) : CueKind × Serial := (e.cueKind, e.serial)

/-- One small step of the collections. -/
inductive State.Does : State → State → Prop where
  | same {s t : State} (h : t.work = s.work) : Does s t
  | offer (s : State) (r : EventRecord) : Does s (s.offer r)
  | takeEvents (s : State) (n : Nat) : Does s { s with ev := s.ev.take n }
  | count (s : State) (c : Counters) (h : s.counters.Lawful → c.Lawful) : Does s { s with counters := c }
  | reset (s : State) (reason : StartReason) : Does s (s.resetCondition reason)
  | configure (s : State) (p : List Byte) (im : Image) (hc : s.sc.state = .config) (h : Image.ofBytes p = .ok im) :
      Does s (s.configureWith im)
  | change (s : State) (after : StationState) (reason : Reason)
      (h : s.sc.state.cyclesRun = true → after.cyclesRun = true) : Does s (s.changeState after reason)
  | resync (s : State) : Does s (s.dropWork .learning)
  | standOff (s : State) (after : StationState) (reason : FaultReason) : Does s (s.standOff after reason)
  | takeCue (s : State) (item : CueItem) (h : s.ActionsLawful → item.contents.action.Lawful) :
      Does s { s with cq := (s.cq.takeCue s.ct.cycle item).1 }
  | takeCancel (s : State) (id : CueId) : Does s { s with cq := (s.cq.takeCancel id).1 }
  | takePendingCancel (s : State) (id : CueId) : Does s { s with cq := (s.cq.takePendingCancel id).1 }
  | remove (s : State) (p : CueRecord → Bool) (reason : RetireReason) : Does s { s with cq := s.cq.remove p reason }
  | slotWork (s : State) (slot : Nat) (h : s.sc.state.cyclesRun = true) : Does s (s.slotWork slot).1
  | entries (s : State) (g : OutEntry → Option OutEntry) (hkey : ∀ e ∈ s.ob.entries, ∀ x ∈ g e, x.key = e.key)
      (h : s.ActionsLawful → ∀ e ∈ s.ob.entries, ∀ x ∈ g e, ∀ t, x.template = some t → t.contents.action.Lawful) :
      Does s { s with ob := { s.ob with entries := s.ob.entries.filterMap g } }
  | submit (s : State) (t : CueTemplate) (source : Source) (hfull : s.ob.full = false)
      (h : s.ActionsLawful → t.contents.action.Lawful) : Does s { s with ob := s.ob.submit t source }
  | addCancel (s : State) (n : Serial) (self : Option Verdict) (hfull : s.ob.full = false)
      (hopen : s.ob.cancelOpen n = false) : Does s { s with ob := s.ob.addCancel n self }
  | stage (s : State) (id : CueId) (v : Verdict) (h : id.originator ≠ s.self) : Does s (s.stage id v)
  | restage (s : State) (l : List Staged) (h : (l.map Staged.key).Sublist (s.fb.staging.map Staged.key)) :
      Does s { s with fb := { s.fb with staging := l } }
  | drive (s : State) (c : Channel) (a : Action) (ha : a.Lawful)
      (hrun : a.running = true → s.sc.state.cyclesRun = true) : Does s { s with cg := s.cg.drive c a }
  | bind (s : State) (i : TrigInput) (b : Option Binding)
      (h : ∀ x, b = some x → x.template.contents.action.Lawful) :
      Does s (s.setTrigger i { s.trigger i with binding := b })

/-- A chain of such steps. -/
def State.Leads (s t : State) : Prop := Relation.ReflTransGen State.Does s t

/-- What each small step keeps, a chain of them keeps. -/
theorem State.Leads.keeps {P : State → Prop} (h : ∀ s t, State.Does s t → P s → P t) {s t : State} (hst : s.Leads t)
    (hs : P s) : P t := by
  induction hst with
  | refl => exact hs
  | tail _ hd ih => exact h _ _ hd ih

/-! ## Actions read from bytes are lawful -/

/-- R86, R137: an action that is read has its params in range. -/
theorem Action.lawful_of_ofBytes {code value paramA paramB count : Byte} {a : Action}
    (h : Action.ofBytes code value paramA paramB count = some a) : a.Lawful := by
  unfold Action.ofBytes at h
  split at h
  · cases h; trivial
  · split at h
    · cases h
    · next hn => cases h; exact hn
  · split at h
    · cases h
    · next hn => cases h; exact not_or.1 hn
  · cases h; trivial
  · cases h

/-- R86: a template that is read is in range. -/
theorem CueTemplate.valid_of_ofBytes {slots : Nat} {p : List Byte} {t : CueTemplate}
    (h : CueTemplate.ofBytes slots p = some t) : t.Valid slots := by
  unfold CueTemplate.ofBytes at h
  dsimp only at h
  split at h
  · split at h
    · cases h
    · next ha =>
      split at h
      · next hr => cases h; exact ⟨hr.1, Action.lawful_of_ofBytes ha, hr.2.1, hr.2.2⟩
      · cases h
  · cases h

/-- The fields of a received item in the range that R137 checks. -/
def LineItem.Valid (slots : Nat) : LineItem → Prop
  | .cue _ _ lead contents => CueTemplate.Valid slots { contents := contents, lead := lead }
  | .cancel _ | .ack _ _ _ | .release _ => True

theorem LineItem.valid_of_cueItemOf {slots : Nat} {p : List Byte} {item : LineItem}
    (h : cueItemOf slots p = some item) : item.Valid slots := by
  unfold cueItemOf at h
  dsimp only at h
  split at h
  · split at h
    · cases h
    · next ha =>
      split at h
      · next hr => cases h; exact ⟨hr.1, Action.lawful_of_ofBytes ha, hr.2.2.2, hr.2.1, hr.2.2.1⟩
      · cases h
  · cases h

theorem LineItem.valid_of_itemOf {slots : Nat} {p : List Byte} {item : LineItem} (h : itemOf slots p = some item) :
    item.Valid slots := by
  unfold itemOf at h
  split at h
  · split at h
    · cases h
    · exact LineItem.valid_of_cueItemOf h
  · dsimp only at h
    split at h <;> cases h
    trivial
  · dsimp only at h
    split at h
    · cases h
    · obtain ⟨v, -, rfl⟩ := Option.map_eq_some_iff.1 h
      trivial
  · dsimp only at h
    split at h <;> cases h
    trivial
  · cases h

/-- R137: the items read from a frame are in range. -/
theorem LineItem.valid_of_mem_parseItems {slots n : Nat} {p : List Byte} {item : LineItem}
    (h : item ∈ (parseItems slots n p).1) : item.Valid slots := by
  induction n generalizing p with
  | zero => simp [parseItems] at h
  | succ n ih =>
    unfold parseItems at h
    split at h
    · simp at h
    · split at h
      · next hitem _ =>
        rcases List.mem_cons.1 h with rfl | h
        · exact LineItem.valid_of_itemOf hitem
        · exact ih h
      · simp at h

/-! ## The chain of each operation -/

namespace State.Leads

variable {a s : State}

theorem does {t : State} (h : a.Leads s) (hd : s.Does t) : a.Leads t := Relation.ReflTransGen.tail h hd

theorem same {t : State} (h : a.Leads s) (hs : t.work = s.work) : a.Leads t := h.does (.same hs)

theorem st (h : a.Leads s) (st : SlotTable) : a.Leads { s with st := st } := h.same rfl

theorem ct (h : a.Leads s) (ct : CycleTimer) : a.Leads { s with ct := ct } := h.same rfl

theorem lc (h : a.Leads s) (lc : LineController) : a.Leads { s with lc := lc } := h.same rfl

theorem slot (h : a.Leads s) (slot : SlotReport) : a.Leads { s with slot := slot } := h.same rfl

theorem offer (h : a.Leads s) (r : EventRecord) : a.Leads (s.offer r) := h.does (.offer s r)

theorem offers (h : a.Leads s) (rs : List EventRecord) : a.Leads (s.offers rs) := by
  induction rs generalizing s with
  | nil => exact h
  | cons r rs ih => exact ih (h.offer r)

theorem offersUnordered (h : a.Leads s) (xs ys : List EventRecord) : a.Leads (s.offersUnordered xs ys) := by
  obtain ⟨zs, choices, -, heq⟩ := s.offersUnordered_spec xs ys
  rw [heq]
  exact (h.offers zs).same rfl

theorem countUp_le (n : Nat) : countUp n ≤ 65535 := Nat.min_le_left ..

theorem countFormat (h : a.Leads s) : a.Leads s.countFormat :=
  h.does (.count s _ fun hl => { hl with formatErrors := countUp_le _ })

theorem countCrc (h : a.Leads s) : a.Leads s.countCrc :=
  h.does (.count s _ fun hl => { hl with crcErrors := countUp_le _ })

theorem countCycleCheck (h : a.Leads s) : a.Leads s.countCycleCheck :=
  h.does (.count s _ fun hl => { hl with cycleCheck := countUp_le _ })

theorem countStrayAck (h : a.Leads s) : a.Leads s.countStrayAck :=
  h.does (.count s _ fun hl => { hl with strayAcks := countUp_le _ })

theorem countDamagedOpening (h : a.Leads s) : a.Leads s.countDamagedOpening :=
  h.does (.count s _ fun hl => { hl with damagedOpenings := countUp_le _ })

theorem countOwnFailure (h : a.Leads s) : a.Leads s.countOwnFailure :=
  h.does (.count s _ fun hl => { hl with ownFailures := countUp_le _ })

theorem countClaimLoss (h : a.Leads s) : a.Leads s.countClaimLoss :=
  h.does (.count s _ fun hl => { hl with claimLosses := countUp_le _ })

theorem change (h : a.Leads s) (after : StationState) (reason : Reason)
    (hrun : s.sc.state.cyclesRun = true → after.cyclesRun = true) : a.Leads (s.changeState after reason) :=
  h.does (.change s after reason hrun)

/-- A change of the station state beside what the collections' laws do not speak of. -/
theorem changed {t : State} (h : a.Leads s) (ht : t.work = s.work) (after : StationState) (reason : Reason)
    (hrun : s.sc.state.cyclesRun = true → after.cyclesRun = true) : a.Leads (t.changeState after reason) :=
  (h.same ht).change after reason fun ht' => hrun ((State.work_eq_iff.1 ht).1 ▸ ht')

theorem checkCounts (h : a.Leads s) : a.Leads s.checkCounts := by
  unfold State.checkCounts
  split
  · split
    · exact h.change _ _ fun _ => rfl
    · exact h
  · split
    · exact h.change _ _ fun _ => rfl
    · exact h
  · split
    · exact h.change _ _ fun _ => rfl
    · exact h
  all_goals exact h

/-! The outbox. -/

/-- A sweep whose function leaves the kind, the serial and, where it matters, a lawful action. -/
theorem sweepEntries (h : a.Leads s) {f : OutEntry → OutEntry × Option Outcome}
    (hkey : ∀ e ∈ s.ob.entries, (f e).1.key = e.key)
    (hact : s.ActionsLawful → ∀ e ∈ s.ob.entries, ∀ t, (f e).1.template = some t → t.contents.action.Lawful) :
    a.Leads { s with ob := { s.ob with entries := (sweep f s.ob.entries).1 } } := by
  rw [sweep_fst]
  refine h.does (.entries s _ (fun e he x hx => ?_) fun hl e he x hx => ?_)
  all_goals
    simp only [Option.mem_def, Option.ite_none_right_eq_some, Option.some.injEq] at hx
    obtain ⟨-, rfl⟩ := hx
  · exact hkey e he
  · exact hact hl e he

theorem sweepOutbox (h : a.Leads s) {f : OutEntry → OutEntry × Option Outcome}
    (hkey : ∀ e ∈ s.ob.entries, (f e).1.key = e.key)
    (hact : s.ActionsLawful → ∀ e ∈ s.ob.entries, ∀ t, (f e).1.template = some t → t.contents.action.Lawful) :
    a.Leads (s.sweepOutbox f) :=
  (h.sweepEntries hkey hact).offers _

/-- The kind and the serial are all that the key and the template are read from. -/
theorem key_eq_of_kind {e x : OutEntry} (hk : x.kind = e.kind) (hn : x.serial = e.serial) :
    x.key = e.key ∧ x.template = e.template := by
  unfold OutEntry.key OutEntry.cueKind OutEntry.isCue OutEntry.template
  rw [hk, hn]
  exact ⟨rfl, rfl⟩

/-- A sweep whose function leaves each entry's kind and serial. -/
theorem sweepKeeping (h : a.Leads s) {f : OutEntry → OutEntry × Option Outcome}
    (hf : ∀ e, (f e).1.kind = e.kind ∧ (f e).1.serial = e.serial) : a.Leads (s.sweepOutbox f) :=
  h.sweepOutbox (fun e _ => (key_eq_of_kind (hf e).1 (hf e).2).1)
    fun hl e he t ht => hl.entries e he t ((key_eq_of_kind (hf e).1 (hf e).2).2 ▸ ht)

theorem onEntry_keeps {kind : CueKind} {n : Serial} {f : OutEntry → OutEntry × Option Outcome}
    (hf : ∀ e, (f e).1.kind = e.kind ∧ (f e).1.serial = e.serial) (e : OutEntry) :
    (onEntry kind n f e).1.kind = e.kind ∧ (onEntry kind n f e).1.serial = e.serial := by
  unfold onEntry
  split
  · exact hf e
  · exact ⟨rfl, rfl⟩

theorem takeAck (h : a.Leads s) (z : Station) (n : Serial) (v : Verdict) : a.Leads (s.takeAck z n v) := by
  unfold State.takeAck
  split
  · exact h.countStrayAck
  · split
    · exact h.sweepKeeping (onEntry_keeps fun _ => ⟨rfl, rfl⟩)
    · exact h.countStrayAck

theorem cancelSelf (h : a.Leads s) (n : Serial) (v : Verdict) : a.Leads (s.cancelSelf n v) :=
  h.sweepKeeping (onEntry_keeps fun _ => ⟨rfl, rfl⟩)

theorem ownVerdict (h : a.Leads s) (n : Serial) (v : Verdict) : a.Leads (s.ownVerdict n v) := by
  unfold State.ownVerdict
  split
  · exact h.sweepKeeping (onEntry_keeps fun _ => ⟨rfl, rfl⟩)
  · exact h.cancelSelf n v

theorem offerOwn (h : a.Leads s) (item : CueItem) (hitem : s.ActionsLawful → item.contents.action.Lawful) :
    a.Leads (s.offerOwn item) :=
  ((h.does (.takeCue s item hitem)).offers _).ownVerdict _ _

/-- An entry that a sweep leaves open stands in the outbox after it. -/
theorem mem_sweepOutbox {f : OutEntry → OutEntry × Option Outcome} {e : OutEntry} (he : e ∈ s.ob.entries)
    (hf : (f e).2 = none) : (f e).1 ∈ (s.sweepOutbox f).ob.entries := by
  rw [State.sweepOutbox_eq]
  exact List.mem_filterMap.2 ⟨e, he, by simp [hf]⟩

theorem cueFirstSend (h : a.Leads s) {n : Serial} {t : CueTemplate} {e : OutEntry} (pending : Bool)
    (he : s.ob.find .cue n = some e) (ht : e.template = some t) : a.Leads (s.cueFirstSend n t pending) := by
  obtain ⟨hmem, hkind, hn⟩ := Outbox.find_spec he
  unfold State.cueFirstSend
  extract_lets id sent offered cancelled settled closed
  have hsent : a.Leads sent := by
    refine h.sweepOutbox (fun x _ => ?_) fun hl x hx u hu => ?_
    · unfold onEntry
      split
      · next hx => simpa [OutEntry.key, OutEntry.cueKind, OutEntry.isCue] using (OutEntry.named_iff.1 hx).1.symm
      · rfl
    · unfold onEntry at hu
      split at hu
      · cases hu; exact hl.entries e hmem t ht
      · exact hl.entries x hx u hu
  have hoffered : a.Leads offered := by
    refine hsent.offerOwn _ fun hl => ?_
    have := mem_sweepOutbox (f := onEntry .cue n fun e =>
      ({ e with state := .sent, kind := .cue t false, send := some (s.firstSend (min s.window t.lead)) }, none))
      hmem (by simp [onEntry, OutEntry.named_iff.2 ⟨hkind, hn⟩])
    exact hl.entries _ this t (by simp [onEntry, OutEntry.named_iff.2 ⟨hkind, hn⟩, OutEntry.template])
  have hsettled : a.Leads settled := by
    simp only [settled]
    split
    · exact (hoffered.does (.takePendingCancel offered id)).cancelSelf _ _
    · exact hoffered
  have hclosed : a.Leads closed := hsettled.sweepKeeping (onEntry_keeps fun _ => ⟨rfl, rfl⟩)
  split
  · exact hclosed.sweepKeeping (onEntry_keeps fun _ => ⟨rfl, rfl⟩)
  · exact hclosed

theorem cueRetrySent (h : a.Leads s) {n : Serial} {t : CueTemplate} {e : OutEntry} (lead : Nat)
    (he : s.ob.find .cue n = some e) (ht : e.template = some t) : a.Leads (s.cueRetrySent n t lead) := by
  obtain ⟨hmem, hkind, hn⟩ := Outbox.find_spec he
  refine (h.sweepKeeping (onEntry_keeps fun _ => ⟨rfl, rfl⟩)).offerOwn _ fun hl => ?_
  have := mem_sweepOutbox (s := s) (f := onEntry .cue n fun e =>
    ({ e with state := .sent, send := e.send.map fun d => d.again s.ct.cycle }, none))
    hmem (by simp [onEntry, OutEntry.named_iff.2 ⟨hkind, hn⟩])
  exact hl.entries _ this t (by
    rw [← ht]
    simp [onEntry, OutEntry.named_iff.2 ⟨hkind, hn⟩, OutEntry.template])

theorem cancelFirstSend (h : a.Leads s) (n : Serial) (self : Option Verdict) : a.Leads (s.cancelFirstSend n self) := by
  have hsent := h.sweepKeeping (f := onEntry .cancel n fun e =>
    ({ e with state := .sent, send := some (s.firstSend s.window) }, none)) (onEntry_keeps fun _ => ⟨rfl, rfl⟩)
  unfold State.cancelFirstSend
  refine State.Leads.sweepKeeping ?_ (onEntry_keeps fun _ => ⟨rfl, rfl⟩)
  split
  · exact hsent
  · exact (hsent.does (.takeCancel _ _)).cancelSelf _ _

theorem cancelRetrySent (h : a.Leads s) (n : Serial) : a.Leads (s.cancelRetrySent n) :=
  h.sweepKeeping (onEntry_keeps fun _ => ⟨rfl, rfl⟩)

theorem itemSent (h : a.Leads s) (item : TxItem) : a.Leads (s.itemSent item) := by
  unfold State.itemSent
  split
  · exact h
  · exact h
  · split
    · next he => exact h.cueFirstSend _ he rfl
    · next he => exact h.cueRetrySent _ he rfl
    · exact h
  · split
    · exact h.cancelFirstSend _ _
    · exact h.cancelRetrySent _
    · exact h

theorem itemsSent (h : a.Leads s) (items : List TxItem) : a.Leads (items.foldl State.itemSent s) :=
  List.foldlRecOn items State.itemSent h fun _ ht item _ => ht.itemSent item

theorem takenBack_keeps (talking : Bool) (o : Outbox) (items : List TxItem) (e : OutEntry) :
    (e.takenBack talking o items).1.kind = e.kind ∧ (e.takenBack talking o items).1.serial = e.serial := by
  unfold OutEntry.takenBack OutEntry.fail OutEntry.withdraw
  dsimp only
  split_ifs <;> exact ⟨rfl, rfl⟩

theorem itemsFailed (h : a.Leads s) (items : List TxItem) : a.Leads (s.itemsFailed items) :=
  h.sweepKeeping (takenBack_keeps _ _ items)

/-- An entry list mapped by a function that leaves each entry's kind and serial. -/
theorem mapEntries (h : a.Leads s) {g : OutEntry → OutEntry}
    (hkey : ∀ e, (g e).key = e.key)
    (ht : ∀ e, (g e).template = e.template) : a.Leads { s with ob := { s.ob with entries := s.ob.entries.map g } } := by
  rw [← List.filterMap_eq_map (f := g)]
  refine h.does (.entries s _ (fun e _ x hx => ?_) fun hl e he x hx t hxt => ?_)
  all_goals
    obtain rfl : g e = x := by simpa using hx
  · exact hkey e
  · exact hl.entries e he t (ht e ▸ hxt)

/-! The transitions of the station. -/

theorem enterLineFault (h : a.Leads s) (reason : FaultReason) : a.Leads (s.enterLineFault reason) :=
  (h.does (.standOff s _ _)).offers _

theorem enterHalted (h : a.Leads s) (reason : FaultReason) : a.Leads (s.enterHalted reason) :=
  (h.does (.standOff s _ _)).offers _

theorem resync (h : a.Leads s) (reason : Reason) (own : EventRecord) : a.Leads (s.resync reason own) :=
  (h.does (.resync s)).offers _

/-! The own frame. -/

theorem markInFlight_keys (n : Nat) (l : List Staged) : (markInFlight n l).map Staged.key = l.map Staged.key := by
  induction n generalizing l with
  | zero => rfl
  | succ n ih =>
    cases l with
    | nil => rfl
    | cons e es => simp [markInFlight, ih, Staged.key]

theorem placed_kind (items : List TxItem) (e : OutEntry) :
    (e.placed items).kind = e.kind ∧ (e.placed items).serial = e.serial := by
  unfold OutEntry.placed
  split <;> exact ⟨rfl, rfl⟩

theorem fixSlotFrame (h : a.Leads s) (slot : Nat) : a.Leads (s.fixSlotFrame slot) := by
  have hstaged := h.does (.restage s (markInFlight s.ackLimit s.fb.staging) (by rw [markInFlight_keys]))
  exact (State.Leads.mapEntries hstaged (g := OutEntry.placed (s.frameItems slot))
    (fun e => (key_eq_of_kind (placed_kind _ e).1 (placed_kind _ e).2).1)
    fun e => (key_eq_of_kind (placed_kind _ e).1 (placed_kind _ e).2).2).same rfl

theorem fixClaim (h : a.Leads s) (r : Nat) : a.Leads (s.fixClaim r) := h.same rfl

theorem claimPolicy (h : a.Leads s) : a.Leads s.claimPolicy.1 := by
  unfold State.claimPolicy
  dsimp only
  have hs1 : a.Leads (if s.st.freeSlots.isEmpty then s else { s with st := { s.st with reportArmed := true } }) := by
    split
    · exact h
    · exact h.same rfl
  split
  · split
    · exact hs1.fixClaim _
    · split
      · exact h.same rfl
      · exact h
  · exact hs1

theorem endFrame (h : a.Leads s) (own : OwnOutcome) : a.Leads (s.endFrame own) := h.same rfl

theorem releaseOwn (h : a.Leads s) (slot : Nat) : a.Leads (s.releaseOwn slot) := by
  unfold State.releaseOwn
  split
  · exact ((h.st _).offer _).checkCounts
  · exact h

theorem loseOwn (h : a.Leads s) (slot : Nat) : a.Leads (s.loseOwn slot) := by
  unfold State.loseOwn
  split
  · exact ((h.st _).offer _).checkCounts
  · split
    · exact (h.st _).checkCounts
    · exact h

theorem setFailures (h : a.Leads s) (slot n : Nat) : a.Leads (s.setFailures slot n) := by
  unfold State.setFailures
  split
  · exact h
  · exact h.same rfl

theorem stagingSent_sublist (l : List Staged) : ((stagingSent l).map Staged.key).Sublist (l.map Staged.key) := by
  unfold stagingSent
  rw [List.map_map]
  exact List.filter_sublist.map _

theorem frameDone (h : a.Leads s) (slot : Nat) (f : TxFrame) : a.Leads (s.frameDone slot f) := by
  have hsent := ((h.does (.restage s _ (stagingSent_sublist _))).itemsSent f.items)
  unfold State.frameDone
  dsimp only
  split
  · exact ((hsent.setFailures _ _).endFrame _).releaseOwn _
  · exact (hsent.setFailures _ _).endFrame _

theorem stagingKept_keys (l : List Staged) : (stagingKept l).map Staged.key = l.map Staged.key := by
  simp [stagingKept, Staged.key]

theorem frameBroken (h : a.Leads s) (slot : Nat) (f : TxFrame) : a.Leads (s.frameBroken slot f) := by
  have hfailed := (h.does (.restage s (stagingKept s.fb.staging) (by rw [stagingKept_keys]))).itemsFailed f.items
  unfold State.frameBroken
  dsimp only
  split
  · exact ((hfailed.setFailures _ _).countOwnFailure).endFrame _
  · exact hfailed.countOwnFailure.endFrame _

theorem frameBeaten (h : a.Leads s) (slot : Nat) (f : TxFrame) : a.Leads (s.frameBeaten slot f) := by
  have hfailed := (h.does (.restage s (stagingKept s.fb.staging) (by rw [stagingKept_keys]))).itemsFailed f.items
  exact State.Leads.loseOwn ((hfailed.endFrame .arbitrationLost).lc _) slot

/-! The judgement of a slot. -/

theorem depart_keeps (z : Station) (e : OutEntry) : (e.depart z).1.kind = e.kind ∧ (e.depart z).1.serial = e.serial := by
  unfold OutEntry.depart OutEntry.settle
  split <;> exact ⟨rfl, rfl⟩

theorem peerGone (h : a.Leads s) (z : Station) (slot : Nat) (reason : LossReason) :
    a.Leads (s.peerGone z slot reason).1 := by
  unfold State.peerGone
  split
  · exact h
  · split
    · refine ((h.st _).offer _).sweepEntries (fun e _ => ?_) fun hl e he t ht => ?_
      · exact (key_eq_of_kind (depart_keeps z e).1 (depart_keeps z e).2).1
      · exact hl.entries e he t ((key_eq_of_kind (depart_keeps z e).1 (depart_keeps z e).2).2 ▸ ht)
    · exact h

theorem loseHeld (h : a.Leads s) (z : Station) (slot : Nat) (reason : LossReason) :
    a.Leads (s.loseHeld z slot reason) :=
  (h.peerGone z slot reason).offers _

theorem recordClaim (h : a.Leads s) (r : Nat) (c : Station) : a.Leads (s.recordClaim r c) := by
  unfold State.recordClaim
  dsimp only
  split
  · exact h
  · have hu : ∀ u : State, a.Leads u → a.Leads (if c = s.self then u.checkCounts else u) := fun u hu => by
      split
      · exact hu.checkCounts
      · exact hu
    refine hu _ ?_
    split
    · split
      · exact h.same rfl
      · exact (h.st _).loseHeld _ _ _
    · exact h.same rfl
    · exact h.same rfl

theorem applyClaim (h : a.Leads s) (r c : Nat) : a.Leads (s.applyClaim r c) := by
  unfold State.applyClaim
  dsimp only
  have ht : a.Leads (if 1 ≤ r ∧ r < s.slots then s.recordClaim r (BitVec.ofNat 5 c) else s) := by
    split
    · exact h.recordClaim _ _
    · exact h
  split
  · exact ht.same rfl
  · exact ht

theorem seeOwner (h : a.Leads s) (slot : Nat) (z : Station) : a.Leads (s.seeOwner slot z) := by
  unfold State.seeOwner
  extract_lets before put checked gone
  have hput : a.Leads put := h.same rfl
  have hchecked : a.Leads checked := by
    simp only [checked]
    split
    · exact hput.checkCounts
    · exact hput
  have hgone : a.Leads gone.1 := by
    simp only [gone]
    clear_value before checked
    split
    · split
      · exact hchecked
      · exact hchecked.peerGone _ _ _
    · exact hchecked
    · exact hchecked
  split
  · exact (hgone.st _).offers _
  · exact (hgone.st _).offersUnordered _ _

theorem seeSilence (h : a.Leads s) (slot : Nat) : a.Leads (s.seeSilence slot) := by
  unfold State.seeSilence
  split
  · exact h
  · split
    · dsimp only
      split
      · exact (h.st _).checkCounts
      · exact h.same rfl
    · exact h
  · split
    · exact h.same rfl
    · dsimp only
      split
      · exact (h.st _).checkCounts
      · exact (h.st _).loseHeld _ _ _

theorem applyRelease (h : a.Leads s) (z : Station) (r : Nat) : a.Leads (State.applyRelease z s r) := by
  unfold State.applyRelease
  split
  · exact h
  · split
    · exact h.same rfl
    · exact h
  · split
    · exact (h.st _).loseHeld _ _ _
    · exact h

theorem judgeHeard (h : a.Leads s) (slot : Nat) : a.Leads (s.judgeHeard slot) := by
  unfold State.judgeHeard
  split
  · exact h.applyClaim _ _
  · exact List.foldlRecOn _ _ (h.seeOwner _ _) fun _ ht r _ => ht.applyRelease _ r
  · exact h.seeSilence _
  · exact h.seeSilence _

theorem judgeCompleted (h : a.Leads s) (slot : Nat) : a.Leads (s.judgeCompleted slot) := by
  unfold State.judgeCompleted
  split
  · split
    · exact h.same rfl
    · exact h
  · split
    · exact ((h.st _).offer _).checkCounts
    · exact h
  · exact h

theorem judgeBroken (h : a.Leads s) (slot : Nat) : a.Leads (s.judgeBroken slot) := by
  unfold State.judgeBroken
  split
  · split
    · split
      · exact ((h.st _).offer _).checkCounts
      · exact h.same rfl
    · exact h
  · split
    · exact (h.st _).checkCounts
    · exact h
  · exact h

theorem judge (h : a.Leads s) : a.Leads s.judge := by
  unfold State.judge
  split
  · exact h
  · extract_lets t
    have ht : a.Leads t := by
      simp only [t]
      split
      · exact h.applyClaim _ _
      · split
        · exact h
        · exact h.judgeCompleted _
      · exact h.judgeBroken _
      · exact h.judgeHeard _
      · exact h.judgeHeard _
    exact ht.same rfl

/-! Reception. -/

theorem note (h : a.Leads s) (f : Finding) : a.Leads (s.note f) := h.same rfl

theorem judgeLate (h : a.Leads s) : a.Leads s.judgeLate := by
  unfold State.judgeLate
  split
  · exact h.judge
  · exact h

theorem frameLost (h : a.Leads s) : a.Leads s.frameLost := (h.countFormat.note _).judgeLate

theorem takeCueItem (h : a.Leads s) (item : CueItem) (hz : item.id.originator ≠ s.self)
    (hitem : item.contents.action.Lawful) : a.Leads (s.takeCueItem item) :=
  ((h.does (.takeCue s item fun _ => hitem)).offers _).does (.stage _ _ _ (by simpa [State.self] using hz))

theorem takeCancelItem (h : a.Leads s) (id : CueId) (hz : id.originator ≠ s.self) : a.Leads (s.takeCancelItem id) :=
  (h.does (.takeCancel s id)).does (.stage _ _ _ hz)

theorem dispatch (h : a.Leads s) {z : Station} (hz : z ≠ s.self) {item : LineItem} {slots : Nat}
    (hitem : item.Valid slots) : a.Leads (State.dispatch z s item) := by
  cases item with
  | cue serial retry lead contents => exact h.takeCueItem _ hz hitem.action
  | cancel serial => exact h.takeCancelItem _ hz
  | ack originator serial verdict =>
    unfold State.dispatch
    dsimp only
    split
    · exact h.takeAck _ _ _
    · exact h
  | release slot => exact h.same rfl

theorem takeFrame (h : a.Leads s) {z : Station} (hz : z ≠ s.self) (bs : List Byte) : a.Leads (s.takeFrame z bs) := by
  unfold State.takeFrame
  split
  · dsimp only
    have hfold : a.Leads ((parseItems s.slots (itemArea bs).length (itemArea bs)).1.foldl (State.dispatch z) s) ∧
        ((parseItems s.slots (itemArea bs).length (itemArea bs)).1.foldl (State.dispatch z) s).self = s.self := by
      refine List.foldlRecOn (motive := fun t : State => a.Leads t ∧ t.self = s.self) _ _ ⟨h, rfl⟩ ?_
      rintro t ⟨ht, hself⟩ item hmem
      exact ⟨ht.dispatch (hself ▸ hz) (LineItem.valid_of_mem_parseItems hmem), by simpa [State.self] using hself⟩
    split
    · exact hfold.1.countFormat
    · exact hfold.1
  · exact h.countCycleCheck

theorem takeClaim (h : a.Leads s) (r : Byte) : a.Leads (s.takeClaim r) := by
  unfold State.takeClaim
  split
  · exact h.countFormat
  · exact h

theorem takeValid (h : a.Leads s) (f : Finding) (bs : List Byte) : a.Leads (s.takeValid f bs) := by
  unfold State.takeValid
  split
  · split
    · exact h.enterHalted _
    · exact ((h.takeClaim _).note _).judgeLate
  · split
    · split
      · exact h.enterHalted _
      · exact h
    · next hz => exact ((h.note _).takeFrame (by simpa [State.self] using hz) bs).judgeLate
  · exact h

theorem receive (h : a.Leads s) (bs : List Byte) (framingError : Bool) : a.Leads (s.receive bs framingError) := by
  unfold State.receive
  split
  · exact h
  · split
    · exact h.takeValid _ _
    · exact (h.countCrc.note _).judgeLate
    · split
      · exact (h.slot _).frameLost
      · exact h.frameLost

/-! The openings and the slots. -/

theorem beginOpening (h : a.Leads s) (position : Nat) : a.Leads (s.beginOpening position) := h.same rfl

theorem learnAt (h : a.Leads s) (role : OpeningRole) (backward : Bool) : a.Leads (s.learnAt role backward) := by
  unfold State.learnAt
  split
  · exact h.change _ _ fun _ => rfl
  · split
    · refine h.change _ _ fun _ => ?_
      split <;> rfl
    · exact h
  all_goals exact h

theorem atDeadline_fst (now : Cycle) (e : OutEntry) : (e.atDeadline now).1 = e := by
  unfold OutEntry.atDeadline
  split <;> rfl

theorem finishOpening (h : a.Leads s) (o : Opening) : a.Leads (s.finishOpening o) := by
  have hcq : a.Leads { s with cq := if o.slip = 0 then s.cq else s.cq.purge o.number } := by
    split
    · exact h.same rfl
    · exact h.does (.remove s _ _)
  have hob := hcq.sweepEntries (f := OutEntry.atDeadline o.number) (fun e _ => by rw [atDeadline_fst])
    fun hl e he t ht => hl.entries e he t (atDeadline_fst o.number e ▸ ht)
  unfold State.finishOpening
  extract_lets deadlines outbox t u v
  have ht : a.Leads t := hob.same rfl
  have hu : a.Leads u := ht.offersUnordered _ _
  refine State.Leads.learnAt ?_ _ _
  simp only [v]
  split
  · exact hu.countDamagedOpening
  · exact hu

theorem endShape (h : a.Leads s) (o : Opening) (shape : Byte) : a.Leads (s.endShape o shape) := by
  unfold State.endShape
  split
  · refine State.Leads.enterHalted ?_ _
    split
    · exact h.countDamagedOpening
    · exact h
  · split
    · exact (h.resync _ _).finishOpening _
    · exact h.finishOpening _

theorem listenAgain (h : a.Leads s) : a.Leads s.listenAgain :=
  State.Leads.countDamagedOpening (h.ct (s.ct.wait s.listenTime))

theorem damageOpening (h : a.Leads s) : a.Leads s.damageOpening := by
  unfold State.damageOpening
  split
  · split
    · exact h
    · split
      · exact h
      all_goals
        split
        · exact h.listenAgain
        · exact h.same rfl
  · exact h

theorem recognizePulse (h : a.Leads s) (run : Nat) (inWindow : Bool) : a.Leads (s.recognizePulse run inWindow) := by
  unfold State.recognizePulse
  split
  · exact h
  · split
    · exact h.same rfl
    · split
      · exact (h.resync .stray _).same rfl
      · split
        · exact h.same rfl
        · exact h

theorem beginSlot (h : a.Leads s) (slot : Nat) (hrun : s.sc.state.cyclesRun = true) : a.Leads (s.beginSlot slot) := by
  unfold State.beginSlot
  extract_lets timer report t work
  have ht : a.Leads t := h.same rfl
  have hwork : a.Leads work.1 := ht.does (.slotWork t slot hrun)
  split
  · exact hwork.claimPolicy.offersUnordered _ _
  · split
    · exact (hwork.offers _).fixSlotFrame _
    · exact hwork.offers _

theorem endSlot (h : a.Leads s) (slot : Nat) (late : Option (List Byte)) : a.Leads (s.endSlot slot late) := by
  unfold State.endSlot
  dsimp only
  split
  · split
    · exact h.same rfl
    · exact ((h.ct _).lc _).judge
  · exact ((h.ct _).lc _).judge

/-! The host's commands and the triggers. -/

theorem leaveLine (h : a.Leads s) : a.Leads s.leaveLine := by
  have hleaving := h.changed (t := { s with sc := { s.sc with talkIntent := false } }) rfl .leaving .leave fun _ => rfl
  exact (hleaving.sweepKeeping fun _ => ⟨rfl, rfl⟩).checkCounts

theorem cancelSent (h : a.Leads s) (n : Serial) (hfull : s.ob.full = false) (hopen : s.ob.cancelOpen n = false) :
    a.Leads (s.cancelSent n) := by
  unfold State.cancelSent
  dsimp only
  split
  · exact (h.does (.remove s _ _)).does (.addCancel _ n _ hfull hopen)
  · exact h.does (.addCancel s n _ hfull hopen)

/-- The CUE entry marked withdraw-pending (R89). -/
theorem pend_keys (n : Serial) (e : OutEntry) :
    let x := match e.kind with
      | .cue t _ => if e.serial = n then { e with kind := .cue t true } else e
      | .cancel => e
    x.key = e.key ∧ x.template = e.template := by
  dsimp only
  split
  · next ht =>
    split
    · simp [OutEntry.key, OutEntry.cueKind, OutEntry.isCue, OutEntry.template, ht]
    · exact ⟨rfl, rfl⟩
  · exact ⟨rfl, rfl⟩

/-- Whether a CANCEL entry of a serial is open is read from the entries' keys. -/
theorem cancelOpen_eq_any (o : Outbox) (n : Serial) :
    o.cancelOpen n = (o.entries.map OutEntry.key).any (· == (.cancel, n)) := by
  rw [Bool.eq_iff_iff]
  simp [Outbox.cancelOpen, Outbox.find, OutEntry.key, OutEntry.named_iff]

theorem pend (h : a.Leads s) (n : Serial) (hfull : s.ob.full = false) (hopen : s.ob.cancelOpen n = false) :
    a.Leads { s with ob := s.ob.pend n } := by
  have hmarked := h.mapEntries (g := fun e => match e.kind with
      | .cue t _ => if e.serial = n then { e with kind := .cue t true } else e
      | .cancel => e) (fun e => (pend_keys n e).1) fun e => (pend_keys n e).2
  refine hmarked.does (.addCancel _ n none ?_ ?_)
  · simpa [Outbox.full] using hfull
  · rw [cancelOpen_eq_any] at hopen ⊢
    rw [← hopen, List.map_map]
    congr 2
    funext e
    exact (pend_keys n e).1

theorem cancelSerial (h : a.Leads s) (n : Serial) : a.Leads (s.cancelSerial n).2 := by
  rcases s.cancelSerial_cases n with heq | heq | ⟨hfull, hopen, heq | ⟨-, heq⟩⟩ <;> rw [heq]
  · exact h.sweepKeeping (onEntry_keeps fun _ => ⟨rfl, rfl⟩)
  · exact h
  · exact h.pend n hfull hopen
  · exact h.cancelSent n hfull hopen

theorem setLevel (h : a.Leads s) (i : TrigInput) (t : TriggerState) (hb : t.binding = (s.trigger i).binding) :
    a.Leads (s.setTrigger i t) := by
  cases i
  · exact h.same (by simpa [State.work, State.setTrigger, State.trigger] using hb)
  · exact h.same (by simpa [State.work, State.setTrigger, State.trigger] using hb)

theorem present (h : a.Leads s) (i : TrigInput) (edge : Edge) {b : Binding} (hb : (s.trigger i).binding = some b) :
    a.Leads (s.present i edge b.template) := by
  unfold State.present
  split
  · exact h.offer _
  · next hnone =>
    have hfull : s.ob.full = false := by
      unfold State.dropReason at hnone
      split_ifs at hnone with h1 h2 h3 h4
      simpa using h4
    have hsub := h.does (.submit s b.template (.trigger i) hfull fun hl => hl.bindings i b hb)
    refine (hsub.setLevel i _ ?_).offer _
    cases i <;> rfl

theorem edge (h : a.Leads s) (i : TrigInput) : a.Leads (s.edge i) := by
  unfold State.edge
  dsimp only
  have hlevel := h.setLevel i { s.trigger i with level := opposite (s.trigger i).level } rfl
  split
  · exact hlevel
  · next b hb =>
    split
    · exact hlevel.present i _ (by cases i <;> exact hb)
    · exact hlevel

end State.Leads

/-! ## Every row, every step -/

theorem State.nextSlot_spec {s : State} {slot : Nat} (h : s.nextSlot = some slot) :
    s.sc.state.cyclesRun = true ∧ s.ct.phase = .slots ∧
    ((s.ct.slotIndex = none ∧ slot = 0) ∨
      ∃ k, s.ct.slotIndex = some k ∧ s.slot.judged = true ∧ k + 1 < s.slots ∧ slot = k + 1) := by
  unfold State.nextSlot at h
  split at h
  · next hrun =>
    refine ⟨hrun.1, hrun.2, ?_⟩
    split at h
    · next hk => cases h; exact .inl ⟨hk, rfl⟩
    · next k hk =>
      split at h
      · next hj => cases h; exact .inr ⟨k, hk, hj.1, hj.2, rfl⟩
      · cases h
  · cases h

/-- Every row is a chain of small steps. -/
theorem rowEffects_leads (a : State) (c : Instr) : RowEffects c fun s t => a.Leads s → a.Leads t where
  reset _ s reason h := h.does (.reset s reason)
  configure _ s p im hc him h := h.does (.configure s p im hc him)
  start s im hc _ h := by
    refine h.changed (by rfl) .listening .start fun hrun => ?_
    simp [hc, StationState.cyclesRun] at hrun
  leave _ _ h := h.leaveLine
  join _ _ h := h.changed (by rfl) .claiming .join fun _ => rfl
  submit s p t _ hp hfull h := h.does (.submit s t .host hfull fun _ => (CueTemplate.valid_of_ofBytes hp).action)
  cancel _ n h := h.cancelSerial n
  takeEvents s n h := h.does (.takeEvents s n)
  zeroCounters s h := h.does (.count s .zero fun _ => by constructor <;> exact Nat.zero_le _)
  drive s p c x hx hrun h := h.does (.drive s c x (Action.lawful_of_ofBytes hx) hrun)
  bind s p i edge t hp h := h.does (.bind s i _ fun x hx => by cases hx; exact (CueTemplate.valid_of_ofBytes hp).action)
  unbind s i h := h.does (.bind s i none nofun)
  edge _ i h := h.edge i
  period _ h := h.same rfl
  expiry _ _ _ h := h.same rfl
  opens _ _ h := h.beginOpening 0
  deferred _ _ _ _ h := (h.countFormat.note _).judge.beginOpening 10
  pulseRelease _ _ _ _ _ _ h := h.same rfl
  noEcho _ _ _ _ _ _ _ h := (h.enterLineFault .noEcho).same rfl
  pulse _ run inWindow h := h.recognizePulse run inWindow
  numberLoss _ _ _ _ _ _ h := h.same rfl
  numberEnd _ _ _ _ _ _ _ h := h.same rfl
  shapeEnd _ o shape _ _ _ h := h.endShape o shape
  damage _ h := h.damageOpening
  slotBegin _ slot hslot h := h.beginSlot slot (State.nextSlot_spec hslot).1
  slotEnd _ slot late _ _ _ _ _ h := h.endSlot slot late
  frameDone _ f slot _ _ h := h.frameDone slot f
  frameBroken _ f slot _ _ h := h.frameBroken slot f
  frameBeaten _ f slot _ _ h := h.frameBeaten slot f
  claimBeaten _ _ _ _ _ _ h := (h.countClaimLoss.endFrame .arbitrationLost).same rfl
  claimBroken _ _ _ _ _ h := h.countOwnFailure.endFrame _
  claimDone _ _ _ _ _ h := h.endFrame _
  received _ bs framingError _ h := h.receive bs framingError
  lostAhead _ _ h := h.countFormat.same rfl
  frameLost _ _ h := h.frameLost
  stray _ _ h := h.countFormat
  stuck _ _ h := (h.enterLineFault .stuck).same rfl
  stuckAgain _ _ h := State.Leads.offer (h.lc _) _
  restored s hc h := by
    refine State.Leads.offer (h.changed (by rfl) .listening .restored fun hrun => ?_) _
    simp [hc, StationState.cyclesRun] at hrun
  fallingEdge _ _ h := h.same rfl

theorem keptByRows_leads (a : State) : KeptByRows a.Leads where
  port _ _ h := h.same rfl
  hold _ _ h := h.same rfl
  pins _ _ _ h := h.same rfl
  effects := rowEffects_leads a

/-- Every step is a chain of small steps. -/
theorem step_leads {s t : State} (h : step s = .next t) : s.Leads t :=
  (keptByRows_leads s).step (fun _ _ hs => hs.same rfl) (fun _ hs => hs.same rfl) h .refl

/-- What each small step keeps, every step keeps. -/
theorem step_keeps {P : State → Prop} (h : ∀ s t, State.Does s t → P s → P t) {s t : State} (hst : step s = .next t)
    (hs : P s) : P t :=
  (step_leads hst).keeps h hs

end Sys2Proof.Machine
end

section
/-! PROOFS. The configuration image: what each field that is read holds, the subscription entries in their order, and the image that a CONFIGURE carries put in bytes and read back. -/

namespace Sys2Proof.Machine

/-! ## The fields -/

theorem exceptBind_eq_ok {α β : Type} {e : Except (Nat × Byte) α} {f : α → Except (Nat × Byte) β} {b : β}
    (h : e.bind f = .ok b) : ∃ a, e = .ok a ∧ f a = .ok b := by
  cases e with
  | error e => cases h
  | ok a => exact ⟨a, rfl, h⟩

theorem ranged_eq_ok {field lo hi n : Nat} {b : Byte} (h : ranged field lo hi b = .ok n) : lo ≤ n ∧ n ≤ hi := by
  unfold ranged at h
  split at h
  · next hr => cases h; exact hr
  · cases h

/-! ## The subscription entries (R167) -/

/-- A subscription entry that may stand in an image: a group other than 0, with a channel for some position. -/
def Subscription.Mapped (e : Subscription) : Prop :=
  e.group ≠ 0 ∧ (e.pos0.isSome = true ∨ e.pos1.isSome = true ∨ e.pos2.isSome = true ∨ e.pos3.isSome = true)

/-- An entry that is read is mapped, and its group is new. -/
theorem subscriptionOf_spec {before : List Subscription} {p : List Byte} {e : Subscription}
    (h : subscriptionOf before p = some e) : e.Mapped ∧ ∀ x ∈ before, x.group ≠ e.group := by
  unfold subscriptionOf at h
  split at h
  · next a b c d _ _ _ _ =>
    dsimp only at h
    split_ifs at h with hzero hused hnone
    cases h
    refine ⟨⟨hzero, ?_⟩, by simpa using hused⟩
    cases a <;> cases b <;> cases c <;> cases d <;> simp_all
  · cases h

/-- The entries that are read stand after those before them, as many as announced, each mapped, no group twice. -/
theorem subscriptionsOf_spec {n : Nat} {acc subs : List Subscription} {p : List Byte}
    (h : subscriptionsOf n acc p = .ok subs) (hacc : ∀ e ∈ acc, e.Mapped)
    (hgroups : (acc.map Subscription.group).Nodup) :
    subs.length = acc.length + n ∧ (∀ e ∈ subs, e.Mapped) ∧ (subs.map Subscription.group).Nodup := by
  induction n generalizing acc p with
  | zero => cases h; exact ⟨rfl, hacc, hgroups⟩
  | succ n ih =>
    unfold subscriptionsOf at h
    split at h
    · cases h
    · next e he =>
      obtain ⟨hmapped, hnew⟩ := subscriptionOf_spec he
      have hacc' : ∀ x ∈ acc ++ [e], x.Mapped := by
        simpa [or_imp, forall_and] using ⟨hacc, hmapped⟩
      have hgroups' : ((acc ++ [e]).map Subscription.group).Nodup := by
        rw [List.map_append, List.nodup_append]
        exact ⟨hgroups, by simp, by simpa using hnew⟩
      obtain ⟨hlen, hrest⟩ := ih h hacc' hgroups'
      exact ⟨by simp at hlen; omega, hrest⟩

/-! ## The image -/

/-- R166, R167: an image that is taken is valid. -/
theorem Image.valid_of_ofBytes {p : List Byte} {im : Image} (h : Image.ofBytes p = .ok im) : im.Valid := by
  unfold Image.ofBytes at h
  obtain ⟨station, -, h⟩ := exceptBind_eq_ok h
  obtain ⟨role, -, h⟩ := exceptBind_eq_ok h
  obtain ⟨rate, -, h⟩ := exceptBind_eq_ok h
  obtain ⟨slots, -, h⟩ := exceptBind_eq_ok h
  obtain ⟨payload, -, h⟩ := exceptBind_eq_ok h
  obtain ⟨wanted, hwanted, h⟩ := exceptBind_eq_ok h
  obtain ⟨k, hk, h⟩ := exceptBind_eq_ok h
  obtain ⟨r, hr, h⟩ := exceptBind_eq_ok h
  obtain ⟨d, hd, h⟩ := exceptBind_eq_ok h
  obtain ⟨watermark, hwatermark, h⟩ := exceptBind_eq_ok h
  obtain ⟨firing, -, h⟩ := exceptBind_eq_ok h
  obtain ⟨pwm, -, h⟩ := exceptBind_eq_ok h
  obtain ⟨count, hcount, h⟩ := exceptBind_eq_ok h
  split at h
  · cases h
  · next subs hsubs =>
    obtain ⟨hlen, hmapped, hgroups⟩ := subscriptionsOf_spec hsubs (by simp) (by simp)
    have hcount := ranged_eq_ok hcount
    have hwanted := ranged_eq_ok hwanted
    have hfits : subs.length ≤ 8 := by simp at hlen; omega
    cases h
    exact {
      wanted := ⟨hwanted.1, hwanted.2.trans (Nat.min_le_left ..)⟩
      silenceLimit := ranged_eq_ok hk
      retries := (ranged_eq_ok hr).2
      window := ranged_eq_ok hd
      watermark := ranged_eq_ok hwatermark
      subscriptions := hfits
      groups := hgroups
      mapped := hmapped }

end Sys2Proof.Machine
end

section
/-! PROOFS. The laws of the collections over every step: for the event queue with its counters, the cue queue, the outbox, the staging list and the channels what each operation on the collection keeps, and then each statement by the small steps that a step is made of. -/

namespace Sys2Proof.Machine

/-! ## The event queue and the counters (R176 to R181) -/

/-- R179: ATN is right after an evaluation. -/
theorem EventQueue.evaluate_lawful {q : EventQueue} (fits : q.records.length ≤ 32) (lost : q.lost ≤ 255)
    (watermark : 1 ≤ q.watermark ∧ q.watermark ≤ 32) : q.evaluate.Lawful :=
  ⟨fits, lost, watermark, by simp [EventQueue.evaluate, EventQueue.wantsAttention]⟩

theorem EventQueue.Lawful.offer {q : EventQueue} (h : q.Lawful) (r : EventRecord) : (q.offer r).Lawful := by
  unfold EventQueue.offer
  split
  · exact evaluate_lawful (by simp; omega) h.lost h.watermark
  · exact { h with lost := Nat.min_le_left .. }

theorem EventQueue.Lawful.take {q : EventQueue} (h : q.Lawful) (n : Nat) : (q.take n).Lawful :=
  evaluate_lawful (by have := h.fits; simp; omega) (Nat.zero_le _) h.watermark

theorem EventQueue.reset_lawful : EventQueue.reset.Lawful := by
  refine ⟨by decide, by decide, by decide, ?_⟩
  simp [EventQueue.reset]

theorem Counters.zero_lawful : Counters.zero.Lawful := by
  constructor <;> exact Nat.zero_le _

/-- R176 to R181: each small step keeps the event queue and the counters lawful. -/
theorem State.Does.keeps_events {s t : State} (h : s.Does t) (hs : s.ev.Lawful ∧ s.counters.Lawful) :
    t.ev.Lawful ∧ t.counters.Lawful := by
  obtain ⟨hev, hcounters⟩ := hs
  cases h with
  | same h =>
    obtain ⟨-, -, -, -, -, -, hev', hcounters', -⟩ := State.work_eq_iff.1 h
    exact ⟨hev' ▸ hev, hcounters' ▸ hcounters⟩
  | offer r => exact ⟨hev.offer r, by simpa using hcounters⟩
  | takeEvents n => exact ⟨hev.take n, hcounters⟩
  | count c hc => exact ⟨hev, hc hcounters⟩
  | reset reason => exact ⟨EventQueue.reset_lawful, Counters.zero_lawful⟩
  | configure p im hc him =>
    exact ⟨EventQueue.evaluate_lawful hev.fits hev.lost (Image.valid_of_ofBytes him).watermark, hcounters⟩
  | change after reason hrun => exact ⟨hev.offer _, by simpa using hcounters⟩
  | stage id v hid =>
    refine ⟨by simpa using hev, ?_⟩
    unfold State.stage
    split_ifs
    · exact hcounters
    · exact hcounters
    · exact { hcounters with acksDropped := State.Leads.countUp_le _ }
    · exact hcounters
  | bind i b hb => exact ⟨by simpa using hev, by simpa using hcounters⟩
  | standOff | resync | takeCue | takeCancel | takePendingCancel | remove | slotWork | entries | submit | addCancel
  | restage | drive => exact ⟨hev, hcounters⟩

/-- Settles O51: each small step keeps the queue, its ATN and the counters lawful, so every step does. -/
theorem stepKeepsEventQueue : Obligations.StepKeepsEventQueue := fun _ _ hst hev hcounters =>
  step_keeps (P := fun s => s.ev.Lawful ∧ s.counters.Lawful) (fun _ _ => State.Does.keeps_events) hst ⟨hev, hcounters⟩

end Sys2Proof.Machine
end

section
/-! PROOFS. The cue queue: where a record is inserted, how ids are retired, the verdict on a CUE item by the first step that gives one, and the law of the queue over every step. -/

namespace Sys2Proof.Machine

/-! ## Insertion in order of due position (R42) -/

/-- R42: the record stands after the records of its own position and before the later ones. -/
theorem insertRecord_split (now : Cycle) (r : CueRecord) (l : List CueRecord) :
    ∃ earlier later, l = earlier ++ later ∧ insertRecord now r l = earlier ++ r :: later ∧
      (∀ x ∈ earlier, dueBefore now r.dueCycle r.dueSlot x.dueCycle x.dueSlot = false) ∧
      ∀ x ∈ later.head?, dueBefore now r.dueCycle r.dueSlot x.dueCycle x.dueSlot = true := by
  induction l with
  | nil => exact ⟨[], [], rfl, rfl, by simp, by simp⟩
  | cons x xs ih =>
    cases hb : dueBefore now r.dueCycle r.dueSlot x.dueCycle x.dueSlot with
    | true => exact ⟨[], x :: xs, rfl, by simp [insertRecord, hb], by simp, by simpa using hb⟩
    | false =>
      obtain ⟨earlier, later, rfl, heq, hearlier, hlater⟩ := ih
      exact ⟨x :: earlier, later, rfl, by simp [insertRecord, hb, heq], by simpa [hb] using hearlier, hlater⟩

theorem insertRecord_perm (now : Cycle) (r : CueRecord) (l : List CueRecord) : (insertRecord now r l).Perm (r :: l) := by
  obtain ⟨earlier, later, rfl, heq, -⟩ := insertRecord_split now r l
  exact heq ▸ List.perm_middle

theorem mem_insertRecord {now : Cycle} {r x : CueRecord} {l : List CueRecord} :
    x ∈ insertRecord now r l ↔ x = r ∨ x ∈ l := by
  rw [(insertRecord_perm now r l).mem_iff, List.mem_cons]

/-! ## Retiring (R45) -/

/-- R45: an id that is not held is appended, the oldest of 32 being dropped. -/
theorem retire_of_fresh {list : List Retired} {id : CueId} (h : ∀ e ∈ list, e.id ≠ id) (reason : RetireReason) :
    retire list id reason = (if 32 ≤ list.length then list.tail else list) ++ [{ id := id, reason := reason }] := by
  have hf : list.filter (fun e => e.id != id) = list := List.filter_eq_self.2 fun e he => by simpa using h e he
  simp [retire, hf]

/-- R45: an old entry of the id is removed, and it made room. -/
theorem retire_of_held {before after : List Retired} {e : Retired} (hids : ((before ++ e :: after).map Retired.id).Nodup)
    (hlen : (before ++ e :: after).length ≤ 32) (reason : RetireReason) :
    retire (before ++ e :: after) e.id reason = before ++ after ++ [{ id := e.id, reason := reason }] := by
  have hcons := (List.perm_middle.map Retired.id).nodup_iff.1 hids
  have hne : ∀ x ∈ before ++ after, x.id ≠ e.id := fun x hx heq =>
    (List.nodup_cons.1 hcons).1 (List.mem_map.2 ⟨x, hx, heq⟩)
  have hf : (before ++ e :: after).filter (fun x => x.id != e.id) = before ++ after := by
    rw [List.filter_append, List.filter_cons, if_neg (by simp), ← List.filter_append]
    exact List.filter_eq_self.2 fun x hx => by simpa using hne x hx
  have hroom : ¬ 32 ≤ (before ++ after).length := by simp at hlen ⊢; omega
  unfold retire
  rw [hf]
  simp only [if_neg hroom]

/-- Settles O43: both parts say where the list is cut. -/
theorem queueAndRetiredOrder : Obligations.QueueAndRetiredOrder := by
  refine ⟨?_, fun list id reason hlen hids => ⟨fun h hlt => ?_, fun h heq => ?_, ?_⟩⟩
  · intro now r l before hl
    have hbefore : ∀ x y : CueRecord, dueBefore now x.dueCycle x.dueSlot y.dueCycle y.dueSlot = true ↔ before x y :=
      fun x y => decide_eq_true_iff
    obtain ⟨earlier, later, rfl, heq, hearlier, hlater⟩ := insertRecord_split now r l
    refine ⟨earlier, later, rfl, heq, fun x hx hr => ?_, ?_⟩
    · exact Bool.false_ne_true ((hearlier x hx).symm.trans ((hbefore r x).2 hr))
    · cases later with
      | nil => simp
      | cons y ys =>
        have hry : before r y := (hbefore r y).1 (hlater y rfl)
        refine List.forall_mem_cons.2 ⟨hry, fun x hx => ?_⟩
        have hyx := (List.pairwise_cons.1 (List.pairwise_append.1 hl).2.1).1 x hx
        simp only [before] at hry hyx ⊢
        omega
  · rw [retire_of_fresh h, if_neg (by omega)]
  · rw [retire_of_fresh h, if_pos heq.ge]
  · rintro before e after rfl rfl
    exact retire_of_held hids hlen reason

/-- R45: several ids retired keep the list within 32 entries and its ids distinct, and bring in no others. -/
theorem retireAll_spec {list : List Retired} (hlen : list.length ≤ 32) (hids : (list.map Retired.id).Nodup)
    (ids : List CueId) (reason : RetireReason) :
    (retireAll list ids reason).length ≤ 32 ∧ ((retireAll list ids reason).map Retired.id).Nodup ∧
    ∀ e ∈ retireAll list ids reason, e ∈ list ∨ e.id ∈ ids := by
  induction ids generalizing list with
  | nil => exact ⟨hlen, hids, fun e he => .inl he⟩
  | cons id ids ih =>
    obtain ⟨h1, h2, h3⟩ := ih (retire_length hlen id reason) (retire_nodup hids id reason)
    refine ⟨h1, h2, fun e he => ?_⟩
    rcases h3 e he with h | h
    · rcases mem_retire h with rfl | ⟨h, -⟩
      · exact .inr (List.mem_cons_self ..)
      · exact .inl h
    · exact .inr (List.mem_cons_of_mem _ h)

/-! ## The queue's law over its operations -/

namespace CueQueue.Lawful

variable {q : CueQueue}

/-- Records leave the queue and are retired. -/
theorem drop (h : q.Lawful) (p : CueRecord → Bool) (reason : RetireReason) :
    ({ q with records := q.records.filter fun r => !p r
              retired := retireAll q.retired ((q.records.filter p).map CueRecord.id) reason } : CueQueue).Lawful := by
  obtain ⟨hlen, hids, hmem⟩ := retireAll_spec h.retiredFits h.retiredIds ((q.records.filter p).map CueRecord.id) reason
  refine { h with
    fits := (List.length_filter_le ..).trans h.fits
    ids := h.ids.sublist (List.filter_sublist.map _)
    retiredFits := hlen
    retiredIds := hids
    apart := fun r hr e he heq => ?_ }
  obtain ⟨hr, hp⟩ := List.mem_filter.1 hr
  rcases hmem e he with he | he
  · exact h.apart r hr e he heq
  · obtain ⟨x, hx, hid⟩ := List.mem_map.1 he
    obtain ⟨hx, hpx⟩ := List.mem_filter.1 hx
    have : x = r := List.inj_on_of_nodup_map h.ids hx hr (hid.trans heq)
    simp [← this, hpx] at hp

theorem remove (h : q.Lawful) (p : CueRecord → Bool) (reason : RetireReason) : (q.remove p reason).Lawful :=
  h.drop p reason

/-- An id that no record has is retired. -/
theorem retire (h : q.Lawful) {id : CueId} (hid : q.holds id = false) (reason : RetireReason) :
    ({ q with retired := Machine.retire q.retired id reason } : CueQueue).Lawful :=
  { h with
    retiredFits := retire_length h.retiredFits id reason
    retiredIds := retire_nodup h.retiredIds id reason
    apart := fun r hr e he heq => by
      rcases mem_retire he with rfl | ⟨he, -⟩
      · exact CueQueue.holds_eq_false_iff.1 hid r hr heq.symm
      · exact h.apart r hr e he heq }

theorem forget (h : q.Lawful) (id : CueId) : (q.forget id).Lawful :=
  { h with
    retiredFits := (List.length_filter_le ..).trans h.retiredFits
    retiredIds := h.retiredIds.sublist (List.filter_sublist.map _)
    apart := fun r hr e he => h.apart r hr e (List.mem_filter.1 he).1 }

theorem takeCancel (h : q.Lawful) (id : CueId) : (q.takeCancel id).1.Lawful := by
  unfold CueQueue.takeCancel
  split
  · exact h.remove ..
  · next hid =>
    split
    · exact h
    · exact h.retire (by simpa using hid) _

theorem takePendingCancel (h : q.Lawful) (id : CueId) : (q.takePendingCancel id).1.Lawful := by
  unfold CueQueue.takePendingCancel
  split
  · exact h.remove ..
  · next hid => exact h.retire (by simpa using hid) _

/-- A record whose id is in neither list enters where there is room. -/
theorem insert (h : q.Lawful) (now : Cycle) {r : CueRecord} (hroom : q.records.length < 64)
    (hid : ∀ x ∈ q.records, x.id ≠ r.id) (hretired : ∀ e ∈ q.retired, e.id ≠ r.id) (n : Nat) :
    ({ q with records := insertRecord now r q.records, insertions := n } : CueQueue).Lawful :=
  { h with
    fits := by
      show (insertRecord now r q.records).length ≤ 64
      rw [(insertRecord_perm now r q.records).length_eq, List.length_cons]
      omega
    ids := by
      rw [((insertRecord_perm now r q.records).map CueRecord.id).nodup_iff, List.map_cons, List.nodup_cons]
      exact ⟨fun hm => (List.mem_map.1 hm).elim fun x hx => hid x hx.1 hx.2, h.ids⟩
    apart := fun x hx e he => by
      rcases mem_insertRecord.1 hx with rfl | hx
      · exact hretired e he
      · exact h.apart x hx e he }

theorem enterCue (h : q.Lawful) (now : Cycle) (item : CueItem) (channel : Channel)
    (hid : ∀ x ∈ q.records, x.id ≠ item.id) (hretired : ∀ e ∈ q.retired, e.id ≠ item.id) :
    (q.enterCue now item channel).1.Lawful := by
  unfold CueQueue.enterCue
  extract_lets q1
  have hq1 : q1.Lawful ∧ (∀ x ∈ q1.records, x.id ≠ item.id) ∧ ∀ e ∈ q1.retired, e.id ≠ item.id := by
    simp only [q1]
    split
    · refine ⟨h.remove .., fun x hx => hid x (List.mem_filter.1 hx).1, fun e he heq => ?_⟩
      rcases (retireAll_spec h.retiredFits h.retiredIds _ _).2.2 e he with he | he
      · exact hretired e he heq
      · obtain ⟨x, hx, hxe⟩ := List.mem_map.1 he
        exact hid x (List.mem_filter.1 hx).1 (hxe.trans heq)
    · exact ⟨h, hid, hretired⟩
  obtain ⟨hlawful, hrecords, hretired⟩ := hq1
  split
  · exact hlawful
  · next hroom => exact hlawful.insert now (by omega) hrecords hretired _

theorem takeCue (h : q.Lawful) (now : Cycle) (item : CueItem) : (q.takeCue now item).1.Lawful := by
  unfold CueQueue.takeCue
  split
  · exact h
  · split
    · exact h
    · next hid =>
      have hid := CueQueue.holds_eq_false_iff.1 (by simpa using hid)
      split
      · next hnone => exact h.enterCue now item _ hid (CueQueue.retiredAs_eq_none_iff.1 hnone)
      · split
        · exact h
        · exact (h.forget item.id).enterCue now item _ hid fun e he => by simpa using (List.mem_filter.1 he).2

theorem abandon (h : q.Lawful) : q.abandon.Lawful :=
  { h with
    fits := Nat.zero_le _
    ids := List.nodup_nil
    retiredFits := Nat.zero_le _
    retiredIds := List.nodup_nil
    apart := by simp [CueQueue.abandon] }

theorem reset : CueQueue.reset.Lawful := by
  constructor <;> simp [CueQueue.reset]

end CueQueue.Lawful

/-- R69: the records that fire are retired FIRED in queue order. -/
theorem foldl_fireOne_fst (due : List CueRecord) (acc : List Retired × ChannelGenerators × List EventRecord) :
    (due.foldl fireOne acc).1 = retireAll acc.1 (due.map CueRecord.id) .fired := by
  induction due generalizing acc with
  | nil => rfl
  | cons r rs ih => exact ih (fireOne acc r)

/-- R42, R45: each small step keeps the queue and its retired list lawful. -/
theorem State.Does.keeps_queue {s t : State} (h : s.Does t) (hs : s.cq.Lawful) : t.cq.Lawful := by
  cases h with
  | same h =>
    obtain ⟨-, -, hcq, -⟩ := State.work_eq_iff.1 h
    exact hcq ▸ hs
  | reset reason => exact CueQueue.Lawful.reset
  | configure p im hc him =>
    have := Image.valid_of_ofBytes him
    exact { hs with subscriptions := this.subscriptions, groups := this.groups }
  | resync | standOff => exact hs.abandon
  | takeCue item hitem => exact hs.takeCue _ _
  | takeCancel id => exact hs.takeCancel id
  | takePendingCancel id => exact hs.takePendingCancel id
  | remove p reason => exact hs.remove p reason
  | slotWork slot hrun =>
    have := hs.drop (CueRecord.dueAt s.ct.cycle slot) .fired
    simpa only [State.slotWork, foldl_fireOne_fst] using this
  | offer | change | stage | bind => simpa using hs
  | takeEvents | count | entries | submit | addCancel | restage | drive => exact hs

/-- Settles O52: each small step keeps the queue lawful, so every step does. -/
theorem stepKeepsCueQueue : Obligations.StepKeepsCueQueue := fun _ _ hst hs =>
  step_keeps (P := fun s => s.cq.Lawful) (fun _ _ => State.Does.keeps_queue) hst hs

/-! ## The verdict on a CUE item (R46 to R51) -/

/-- R49: an id held nowhere in the retired list is forgotten with no change. -/
theorem CueQueue.forget_of_none {q : CueQueue} {id : CueId} (h : q.retiredAs id = none) : q.forget id = q := by
  have : q.retired.filter (fun e => e.id != id) = q.retired :=
    List.filter_eq_self.2 fun e he => by simpa using CueQueue.retiredAs_eq_none_iff.1 h e he
  simp [CueQueue.forget, this]

/-- R49 to R51: a cue that is mine, whose id no record has, and that is a first send or of an id not retired. -/
theorem CueQueue.takeCue_enters {q : CueQueue} {now : Cycle} {item : CueItem} {channel : Channel}
    (hmine : q.channelOf item.contents.group item.contents.position = some channel) (hheld : q.holds item.id = false)
    (hfirst : item.retry = false ∨ q.retiredAs item.id = none) :
    q.takeCue now item = (q.forget item.id).enterCue now item channel := by
  unfold CueQueue.takeCue
  rw [hmine]
  simp only [hheld, Bool.false_eq_true, if_false]
  cases hret : q.retiredAs item.id with
  | none => simp only [CueQueue.forget_of_none hret]
  | some reason => simp [hfirst.resolve_right (by simp [hret])]

theorem CueQueue.retireAll_map (l : List Retired) (rs : List CueRecord) (reason : RetireReason) :
    retireAll l (rs.map CueRecord.id) reason = rs.foldl (fun l r => retire l r.id reason) l := by
  rw [retireAll, List.foldl_map]

/-- Settles O42: the steps in their order, each by the lookup that decides it. -/
theorem cueVerdicts : Obligations.CueVerdicts := by
  intro q now item hq mine due held known
  refine ⟨fun hmine => ?_, ?_⟩
  · have hmine : q.channelOf item.contents.group item.contents.position = none := hmine
    simp [CueQueue.takeCue, hmine]
  intro channel hmine others gone forgotten retired enters
  have hmine : q.channelOf item.contents.group item.contents.position = some channel := hmine
  have hnot : ¬held → q.holds item.id = false := fun h => by
    simpa [held, CueQueue.holds_eq_false_iff] using h
  have henters : ¬held → (item.retry = false ∨ q.retiredAs item.id = none) → enters := fun hheld hfirst => by
    simp only [enters]
    rw [CueQueue.takeCue_enters hmine (hnot hheld) hfirst]
    cases hrep : item.contents.replace <;>
      simp [CueQueue.enterCue, CueQueue.forget, CueQueue.remove, CueQueue.recordOf, CueQueue.retireAll_map, hrep, others,
        retired, gone, forgotten, due, ahead]
    all_goals rfl
  refine ⟨fun hheld => ?_, fun reason hheld hretry hknown => ?_, fun hheld hretry => henters hheld (.inl hretry),
    fun hheld hretry hknown => henters hheld (.inr (CueQueue.retiredAs_eq_none_iff.2 fun e he heq => ?_))⟩
  · simp [CueQueue.takeCue, hmine, CueQueue.holds_iff.2 hheld]
  · have hret := CueQueue.retiredAs_of_mem hq.retiredIds hknown
    rw [CueQueue.takeCue_retry_of_retired (by simp [hmine]) (hnot hheld) hret hretry]
    cases reason <;> rfl
  · exact hknown e.reason (show _ ∈ q.retired from heq ▸ he)

end Sys2Proof.Machine
end

section
/-! PROOFS. The outbox, the staging list and the channels over every step: the free serial, what each operation keeps of the entries' keys, the staged verdicts' keys and the channels, and the statements by the small steps that a step is made of. -/

namespace Sys2Proof.Machine

/-- The values that a partial map leaves as they were stand in their order. -/
theorem map_filterMap_sublist {α β : Type} {f : α → β} {g : α → Option α} {l : List α}
    (h : ∀ e ∈ l, ∀ x ∈ g e, f x = f e) : ((l.filterMap g).map f).Sublist (l.map f) := by
  induction l with
  | nil => exact .slnil
  | cons e es ih =>
    have ih := ih fun x hx => h x (List.mem_cons_of_mem _ hx)
    cases hg : g e with
    | none => simpa [hg] using ih.cons _
    | some x =>
      have hx := h e (List.mem_cons_self ..) x hg
      simpa [hg, hx] using ih

/-! ## The serial of a new entry (R85) -/

/-- Successive serials that are all in use are no more than the entries. -/
theorem length_of_serials_in_use {entries : List OutEntry} {n : Serial} {m : Nat} (hm : m ≤ 1024)
    (h : ∀ j, j < m → ∃ e ∈ entries, e.serial = n + BitVec.ofNat 10 j) : m ≤ entries.length := by
  have hnodup : ((List.range m).map fun j => n + BitVec.ofNat 10 j).Nodup := by
    refine List.Nodup.map_on (fun i hi j hj heq => ?_) List.nodup_range
    have hi := List.mem_range.1 hi
    have hj := List.mem_range.1 hj
    have := congrArg BitVec.toNat ((BitVec.add_right_inj _).1 heq)
    simp only [BitVec.toNat_ofNat] at this
    omega
  have hsub : ((List.range m).map fun j => n + BitVec.ofNat 10 j) ⊆ entries.map OutEntry.serial := by
    intro x hx
    obtain ⟨j, hj, rfl⟩ := List.mem_map.1 hx
    obtain ⟨e, he, heq⟩ := h j (List.mem_range.1 hj)
    exact List.mem_map.2 ⟨e, he, heq⟩
  simpa using (hnodup.subperm hsub).length_le

/-- The search passes serials in use alone, and stops at a free one unless its advances are spent. -/
theorem freeSerial_spec (entries : List OutEntry) (fuel : Nat) (n : Serial) :
    ∃ k, k ≤ fuel ∧ freeSerial entries fuel n = n + BitVec.ofNat 10 k ∧
      (∀ j, j < k → ∃ e ∈ entries, e.serial = n + BitVec.ofNat 10 j) ∧
      (k < fuel → ∀ e ∈ entries, e.serial ≠ n + BitVec.ofNat 10 k) := by
  induction fuel generalizing n with
  | zero => exact ⟨0, Nat.le_refl _, by simp [freeSerial], by simp, by simp⟩
  | succ fuel ih =>
    unfold freeSerial
    split
    · next hused =>
      obtain ⟨k, hk, heq, hbefore, hfree⟩ := ih (n + 1)
      have hshift : ∀ j, n + 1 + BitVec.ofNat 10 j = n + BitVec.ofNat 10 (j + 1) := fun j => by
        rw [BitVec.ofNat_add, BitVec.add_assoc, BitVec.add_comm (1 : Serial)]
        rfl
      refine ⟨k + 1, by omega, heq.trans (hshift k), fun j hj => ?_, fun hlt => ?_⟩
      · cases j with
        | zero => simpa using hused
        | succ j => exact hshift j ▸ hbefore j (by omega)
      · exact hshift k ▸ hfree (by omega)
    · next hfree => exact ⟨0, by omega, by simp, by simp, fun _ e he => by simpa using fun h => hfree (by simpa using ⟨e, he, h⟩)⟩

/-- R85: the next serial is the first free one from the counter on. -/
theorem Outbox.nextSerial_spec {o : Outbox} (h : o.entries.length ≤ 15) :
    ∃ k, k ≤ o.entries.length ∧ o.nextSerial = o.counter + BitVec.ofNat 10 k ∧
      (∀ e ∈ o.entries, e.serial ≠ o.nextSerial) ∧
      ∀ j, j < k → ∃ e ∈ o.entries, e.serial = o.counter + BitVec.ofNat 10 j := by
  obtain ⟨k, hk, heq, hbefore, hfree⟩ := freeSerial_spec o.entries o.entries.length o.counter
  refine ⟨k, hk, heq, fun e he hserial => ?_, hbefore⟩
  have hserial : e.serial = o.counter + BitVec.ofNat 10 k := hserial.trans heq
  rcases Nat.lt_or_eq_of_le hk with hlt | rfl
  · exact hfree hlt e he hserial
  · have : o.entries.length + 1 ≤ o.entries.length := length_of_serials_in_use (n := o.counter) (by omega) fun j hj => by
      rcases Nat.lt_succ_iff_lt_or_eq.1 hj with hlt | rfl
      · exact hbefore j hlt
      · exact ⟨e, he, hserial⟩
    omega

/-- Settles O10: the search ends at a free serial, since fewer than 1024 are in use. -/
theorem serialIsFirstFree : Obligations.SerialIsFirstFree := fun o h => by
  obtain ⟨k, hk, hrest⟩ := Outbox.nextSerial_spec h
  exact ⟨k, hk.trans h, hrest⟩

/-! ## The outbox (R84) -/

/-- One more entry, of a kind and serial not yet there. -/
theorem Outbox.Lawful.append {o : Outbox} (h : o.Lawful) (hfull : o.full = false) {e : OutEntry}
    (he : e.key ∉ o.entries.map OutEntry.key) (counter : Serial) :
    ({ entries := o.entries ++ [e], counter := counter } : Outbox).Lawful := by
  have hfull : o.entries.length < 16 := by simpa [Outbox.full] using hfull
  refine ⟨by simp; omega, ?_⟩
  show ((o.entries ++ [e]).map OutEntry.key).Nodup
  rw [List.map_append, List.nodup_append]
  refine ⟨h.distinct, by simp, fun x hx y hy => ?_⟩
  rintro rfl
  exact he ((List.mem_singleton.1 hy) ▸ hx)

/-- R84: each small step keeps the outbox lawful. -/
theorem State.Does.keeps_outbox {s t : State} (h : s.Does t) (hs : s.ob.Lawful) : t.ob.Lawful := by
  cases h with
  | same h =>
    obtain ⟨-, -, -, -, hob, -⟩ := State.work_eq_iff.1 h
    exact hob ▸ hs
  | reset | resync | standOff => exact ⟨Nat.zero_le _, List.nodup_nil⟩
  | entries g hkey hact =>
    exact ⟨(List.length_filterMap_le ..).trans hs.fits,
      hs.distinct.sublist (map_filterMap_sublist (f := OutEntry.key) hkey)⟩
  | submit t source hfull hact =>
    refine hs.append hfull (fun hm => ?_) _
    obtain ⟨e, he, heq⟩ := List.mem_map.1 hm
    obtain ⟨-, -, -, hfree, -⟩ := Outbox.nextSerial_spec (o := s.ob) (by
      have : ¬ 16 ≤ s.ob.entries.length := by simpa [Outbox.full] using hfull
      omega)
    exact hfree e he (congrArg Prod.snd heq)
  | addCancel n self hfull hopen =>
    refine hs.append hfull (fun hm => ?_) _
    rw [State.Leads.cancelOpen_eq_any] at hopen
    exact Bool.false_ne_true (hopen.symm.trans (List.any_eq_true.2 ⟨_, hm, beq_self_eq_true _⟩))
  | offer | change | stage | bind => simpa using hs
  | takeEvents | count | configure | takeCue | takeCancel | takePendingCancel | remove | slotWork | restage | drive => exact hs

/-- Settles O53: each small step keeps the outbox lawful, so every step does. -/
theorem stepKeepsOutbox : Obligations.StepKeepsOutbox := fun _ _ hst hs =>
  step_keeps (P := fun s => s.ob.Lawful) (fun _ _ => State.Does.keeps_outbox) hst hs

/-! ## The staging list (R106, R113, R114) -/

namespace State.StagingLawful

variable {s t : State}

/-- The law speaks of the station state, this station's number and the list alone. -/
theorem congr (h : s.StagingLawful) (hstate : t.sc.state = s.sc.state) (hself : t.self = s.self)
    (hlist : t.fb.staging = s.fb.staging) : t.StagingLawful := by
  obtain ⟨hfits, hdistinct, hforeign, hstanding⟩ := h
  constructor <;> simp only [hstate, hself, hlist] <;> assumption

/-- An empty list is lawful. -/
theorem ofNil (h : s.fb.staging = []) : s.StagingLawful := by
  constructor <;> simp [h]

/-- A list whose keys were there before, in their order. -/
theorem sublist (h : s.StagingLawful) (hstate : t.sc.state = s.sc.state) (hself : t.self = s.self)
    (hlist : (t.fb.staging.map Staged.key).Sublist (s.fb.staging.map Staged.key)) : t.StagingLawful where
  fits := by simpa using hlist.length_le.trans (by simpa using h.fits)
  distinct := h.distinct.sublist hlist
  foreign e he := by
    obtain ⟨x, hx, heq⟩ := List.mem_map.1 (hlist.subset (List.mem_map.2 ⟨e, he, rfl⟩))
    have : x.id = e.id := congrArg Prod.fst heq
    exact hself ▸ this ▸ h.foreign x hx
  standing hn := by
    have := hlist
    rw [h.standing (hstate ▸ hn)] at this
    simpa using this

end State.StagingLawful

/-- R113: a verdict put in place of one of its id and class keeps the keys. -/
theorem Staged.key_renew (id : CueId) (v : Verdict) (e : Staged) : (e.renew id v).key = e.key := by
  unfold Staged.renew
  split
  · next hk =>
    obtain ⟨rfl, hkind⟩ : e.id = id ∧ e.verdict.kind = v.kind := by simpa [Staged.keyed] using hk
    simp [Staged.key, hkind]
  · rfl

/-- R113, R114: a verdict staged on a peer's item. -/
theorem State.StagingLawful.stage {s : State} (h : s.StagingLawful) {id : CueId} (hid : id.originator ≠ s.self)
    (v : Verdict) : (s.stage id v).StagingLawful := by
  unfold State.stage
  split
  · exact h
  · next hstages =>
    split
    · refine h.sublist rfl rfl ?_
      rw [List.map_map, show Staged.key ∘ Staged.renew id v = Staged.key from funext (Staged.key_renew id v)]
    · next hany =>
      split
      · exact h.congr (by simp) rfl rfl
      · next hroom =>
        have hnew : (id, v.kind) ∉ s.fb.staging.map Staged.key := fun hm => by
          obtain ⟨e, he, heq⟩ := List.mem_map.1 hm
          exact hany (List.any_eq_true.2 ⟨e, he, by simpa [Staged.keyed, Staged.key] using heq⟩)
        refine ⟨by simp; omega, ?_, fun e he => ?_, fun hn => by simp [hn] at hstages⟩
        · show ((s.fb.staging ++ [_]).map Staged.key).Nodup
          rw [List.map_append, List.nodup_append]
          refine ⟨h.distinct, by simp, fun x hx y hy => ?_⟩
          rintro rfl
          exact hnew ((show x = (id, v.kind) from List.mem_singleton.1 hy) ▸ hx)
        · rcases List.mem_append.1 he with he | he
          · exact h.foreign e he
          · obtain rfl := List.mem_singleton.1 he
            exact hid

/-- R113, R114: each small step keeps the staging list lawful. -/
theorem State.Does.keeps_staging {s t : State} (h : s.Does t) (hs : s.StagingLawful) : t.StagingLawful := by
  cases h with
  | same h =>
    obtain ⟨hstate, himage, -, -, -, hlist, -⟩ := State.work_eq_iff.1 h
    exact hs.congr hstate (by simp [State.self, himage]) hlist
  | reset | resync | standOff => exact .ofNil rfl
  | configure p im hc him => exact .ofNil (hs.standing (by rw [hc]; rfl))
  | change after reason hrun =>
    cases hafter : after.stages with
    | false => exact .ofNil (by simp [State.changeState, State.offer, hafter])
    | true =>
      refine ⟨?_, ?_, ?_, fun hn => by simp [State.changeState, State.offer, hafter] at hn⟩ <;>
        simp only [State.changeState, State.offer, hafter, if_true]
      · exact hs.fits
      · exact hs.distinct
      · exact hs.foreign
  | stage id v hid => exact hs.stage hid v
  | restage l hl => exact hs.sublist rfl rfl hl
  | bind i b hb => cases i <;> exact hs.congr rfl rfl rfl
  | offer | takeEvents | count | takeCue | takeCancel | takePendingCancel | remove | slotWork | entries | submit
  | addCancel | drive => exact hs.congr rfl rfl rfl

/-- Settles O54: each small step keeps the staging list lawful, so every step does. -/
theorem stepKeepsStaging : Obligations.StepKeepsStaging := fun _ _ hst hs =>
  step_keeps (P := State.StagingLawful) (fun _ _ => State.Does.keeps_staging) hst hs

/-! ## The channels (R65, R67, R78) -/

theorem ChanState.Lawful.ofAtRest {c : ChanState} (h : c.AtRest) : c.Lawful := by
  cases c with
  | idle | hold => trivial
  | ramp | pulse => exact h.elim

/-- R65, R86: a lawful action leaves a lawful channel. -/
theorem ChanState.apply_lawful (c : ChanState) {a : Action} (h : a.Lawful) : (c.apply a).Lawful := by
  cases a with
  | set | release => trivial
  | ramp t n =>
    have : n.toNat ≠ 0 := fun h0 => h (BitVec.eq_of_toNat_eq h0)
    exact Nat.pos_of_ne_zero this
  | pulse v a b m =>
    obtain ⟨ha, hb⟩ := h
    have hpos : ∀ x : Byte, x ≠ 0 → 1 ≤ x.toNat := fun x hx =>
      Nat.one_le_iff_ne_zero.2 fun h0 => hx (BitVec.eq_of_toNat_eq h0)
    exact ⟨hpos a ha, hpos b hb, hpos a ha⟩

/-- R67: an action that does not run leaves the channel at rest. -/
theorem ChanState.apply_atRest (c : ChanState) {a : Action} (h : a.running = false) : (c.apply a).AtRest := by
  cases a with
  | set | release => trivial
  | ramp | pulse => cases h

/-- R72, R74: an advance leaves a lawful channel. -/
theorem ChanState.Lawful.advance {c : ChanState} (h : c.Lawful) : c.advance.Lawful := by
  cases c with
  | idle | hold => trivial
  | ramp v start target n k =>
    simp only [ChanState.advance]
    split
    · next hlt =>
      have : (k + 1).toNat = k.toNat + 1 := by
        rw [BitVec.toNat_add]
        have := n.isLt
        simp
        omega
      exact show (k + 1).toNat < n.toNat from this ▸ hlt
    · trivial
  | pulse v a b m phase left =>
    obtain ⟨ha, hb, hleft⟩ := h
    simp only [ChanState.advance]
    split
    · next hlt =>
      refine ⟨ha, hb, ?_⟩
      rw [BitVec.toNat_sub]
      have := left.isLt
      simp
      omega
    · split
      · exact ⟨ha, hb, ha⟩
      · split
        · trivial
        · split <;> exact ⟨ha, hb, hb⟩

/-- R78: the fault policy leaves the channel at rest. -/
theorem ChanState.underPolicy_atRest (c : ChanState) (settings : ChanSettings) : (c.underPolicy settings).AtRest := by
  unfold ChanState.underPolicy
  split
  · trivial
  · split <;> trivial

/-- The channels after one of them is driven are lawful. -/
theorem ChannelGenerators.drive_lawful {g : ChannelGenerators} (h : ∀ d, (g.channels.get d).Lawful) (c : Channel)
    {a : Action} (ha : a.Lawful) (d : Channel) : ((g.drive c a).channels.get d).Lawful := by
  simp only [ChannelGenerators.drive, PerChannel.get_set]
  split
  · exact ChanState.apply_lawful _ ha
  · exact h d

/-- R68: the channels after the due records are lawful. -/
theorem foldl_fireOne_lawful {due : List CueRecord} (hdue : ∀ r ∈ due, r.action.Lawful)
    {acc : List Retired × ChannelGenerators × List EventRecord} (h : ∀ d, (acc.2.1.channels.get d).Lawful) :
    ∀ d, ((due.foldl fireOne acc).2.1.channels.get d).Lawful := by
  induction due generalizing acc with
  | nil => exact h
  | cons r rs ih =>
    exact ih (fun x hx => hdue x (List.mem_cons_of_mem _ hx))
      (ChannelGenerators.drive_lawful h r.channel (hdue r (List.mem_cons_self ..)))

/-- The actions of the records that the queue holds after a CUE item are those it held and the item's. -/
theorem CueQueue.takeCue_actions {q : CueQueue} {now : Cycle} {item : CueItem}
    (h : ∀ r ∈ q.records, r.action.Lawful) (hitem : item.contents.action.Lawful) :
    ∀ r ∈ (q.takeCue now item).1.records, r.action.Lawful := by
  have henter : ∀ (p : CueQueue) channel, p.records = q.records →
      ∀ r ∈ (p.enterCue now item channel).1.records, r.action.Lawful := by
    intro p channel hp
    unfold CueQueue.enterCue
    extract_lets p1
    have hp1 : ∀ r ∈ p1.records, r.action.Lawful := by
      simp only [p1]
      split
      · exact fun r hr => h r (hp ▸ (List.mem_filter.1 hr).1)
      · exact hp ▸ h
    split
    · exact hp1
    · intro r hr
      rcases mem_insertRecord.1 hr with rfl | hr
      · exact hitem
      · exact hp1 r hr
  unfold CueQueue.takeCue
  split
  · exact h
  · split
    · exact h
    · split
      · exact henter q _ rfl
      · split
        · exact h
        · exact henter (q.forget item.id) _ rfl

/-- A cancel brings no record into the queue. -/
theorem CueQueue.takeCancel_subset (q : CueQueue) (id : CueId) :
    (∀ r ∈ (q.takeCancel id).1.records, r ∈ q.records) ∧ ∀ r ∈ (q.takePendingCancel id).1.records, r ∈ q.records := by
  unfold CueQueue.takeCancel CueQueue.takePendingCancel
  constructor
  · split
    · exact fun r hr => (List.mem_filter.1 hr).1
    · split <;> exact fun r hr => hr
  · split
    · exact fun r hr => (List.mem_filter.1 hr).1
    · exact fun r hr => hr

namespace State.ChannelsLawful

variable {s t : State}

theorem actions (h : s.ChannelsLawful) : s.ActionsLawful := ⟨h.entries, h.bindings⟩

/-- The law where the station state, the channels and the bindings stay. -/
theorem keep (h : s.ChannelsLawful) (hstate : t.sc.state = s.sc.state) (hchannels : t.cg.channels = s.cg.channels)
    (hrecords : ∀ r ∈ t.cq.records, r.action.Lawful)
    (hentries : ∀ e ∈ t.ob.entries, ∀ x, e.template = some x → x.contents.action.Lawful)
    (htrig0 : t.trig0.binding = s.trig0.binding) (htrig1 : t.trig1.binding = s.trig1.binding) : t.ChannelsLawful where
  channels := hchannels ▸ h.channels
  atRest := hstate ▸ hchannels ▸ h.atRest
  records := hrecords
  entries := hentries
  bindings i b hb := by
    refine h.bindings i b ?_
    cases i with
    | trig0 => exact htrig0 ▸ hb
    | trig1 => exact htrig1 ▸ hb

end State.ChannelsLawful

/-- R65, R67: each small step keeps the channels lawful. -/
theorem State.Does.keeps_channels {s t : State} (h : s.Does t) (hs : s.ChannelsLawful) : t.ChannelsLawful := by
  cases h with
  | same h =>
    obtain ⟨hstate, -, hcq, hchannels, hob, -, -, -, htrig0, htrig1⟩ := State.work_eq_iff.1 h
    exact hs.keep hstate hchannels (hcq ▸ hs.records) (hob ▸ hs.entries) htrig0 htrig1
  | reset reason =>
    refine ⟨fun c => ?_, fun _ c => ?_, by simp [State.resetCondition, State.reset, CueQueue.reset],
      by simp [State.resetCondition], fun i b hb => ?_⟩
    · simp [State.resetCondition, State.reset, ChannelGenerators.reset, ChanState.Lawful]
    · simp [State.resetCondition, State.reset, ChannelGenerators.reset, ChanState.AtRest]
    · cases i <;> cases hb
  | configure p im hc him => exact hs.keep rfl rfl hs.records hs.entries rfl rfl
  | change after reason hrun =>
    exact { hs with atRest := fun hn => hs.atRest (Bool.eq_false_iff.2 fun h => Bool.false_ne_true (hn.symm.trans (hrun h))) }
  | resync =>
    exact { hs with
      atRest := fun hn => absurd (show true = false from hn) (by decide)
      records := by simp [State.dropWork, CueQueue.abandon]
      entries := by simp [State.dropWork] }
  | standOff after reason =>
    have hrest : ∀ c, ((s.standOff after reason).cg.channels.get c).AtRest := fun c => by
      simpa [State.standOff, ChannelGenerators.underPolicy] using ChanState.underPolicy_atRest _ _
    exact { hs with
      channels := fun c => .ofAtRest (hrest c)
      atRest := fun _ => hrest
      records := by simp [State.standOff, State.dropWork, CueQueue.abandon]
      entries := by simp [State.standOff, State.dropWork] }
  | takeCue item hitem => exact { hs with records := CueQueue.takeCue_actions hs.records (hitem hs.actions) }
  | takeCancel id => exact { hs with records := fun r hr => hs.records r ((CueQueue.takeCancel_subset _ _).1 r hr) }
  | takePendingCancel id => exact { hs with records := fun r hr => hs.records r ((CueQueue.takeCancel_subset _ _).2 r hr) }
  | remove p reason => exact { hs with records := fun r hr => hs.records r (List.mem_filter.1 hr).1 }
  | slotWork slot hrun =>
    refine { hs with
      channels := foldl_fireOne_lawful (fun r hr => hs.records r (List.mem_filter.1 hr).1) fun d => ?_
      atRest := fun hn => absurd (hn.symm.trans hrun) Bool.false_ne_true
      records := fun r hr => hs.records r (List.mem_filter.1 hr).1 }
    simpa [ChannelGenerators.advance] using (hs.channels d).advance
  | entries g hkey hact =>
    refine { hs with entries := fun x hx => ?_ }
    obtain ⟨e, he, hg⟩ := List.mem_filterMap.1 hx
    exact hact hs.actions e he x hg
  | submit t source hfull hact =>
    refine { hs with entries := fun e he x hx => ?_ }
    rcases List.mem_append.1 he with he | he
    · exact hs.entries e he x hx
    · obtain rfl := List.mem_singleton.1 he
      cases hx
      exact hact hs.actions
  | addCancel n self hfull hopen =>
    refine { hs with entries := fun e he x hx => ?_ }
    rcases List.mem_append.1 he with he | he
    · exact hs.entries e he x hx
    · obtain rfl := List.mem_singleton.1 he
      cases hx
  | stage id v hid =>
    exact hs.keep (by simp) (by simp) (by simpa using hs.records) (by simpa using hs.entries) (by simp) (by simp)
  | drive c a ha hrun =>
    refine { hs with channels := ChannelGenerators.drive_lawful hs.channels c ha, atRest := fun hn d => ?_ }
    simp only [ChannelGenerators.drive, PerChannel.get_set]
    split
    · exact ChanState.apply_atRest _ (Bool.eq_false_iff.2 fun h => Bool.false_ne_true (hn.symm.trans (hrun h)))
    · exact hs.atRest hn d
  | bind i b hb =>
    have hother : ∀ j, ((s.setTrigger i { s.trigger i with binding := b }).trigger j).binding =
        if j = i then b else (s.trigger j).binding := fun j => by
      cases i <;> cases j <;> rfl
    refine ⟨?_, ?_, ?_, ?_, fun j x hx => ?_⟩
    · cases i <;> exact hs.channels
    · cases i <;> exact hs.atRest
    · cases i <;> exact hs.records
    · cases i <;> exact hs.entries
    · rw [hother] at hx
      split at hx
      · exact hb x hx
      · exact hs.bindings j x hx
  | offer | takeEvents | count | restage => exact hs.keep rfl rfl hs.records hs.entries rfl rfl

/-- Settles O55: each small step keeps the channels lawful, so every step does. -/
theorem stepKeepsChannels : Obligations.StepKeepsChannels := fun _ _ hst hs =>
  step_keeps (P := State.ChannelsLawful) (fun _ _ => State.Does.keeps_channels) hst hs

end Sys2Proof.Machine
end

section
/-! PROOFS. The station state and the cycle timer: how the checks of the held and claimed counts move the station state through the operations that bring them, and the law of the cycle timer over every step. -/

namespace Sys2Proof.Machine

/-! ## The station controller through the count checks (R148, R150) -/

/-- A state that the count checks can lead to. -/
inductive StationState.Shifts : StationState → StationState → Prop where
  | same (a : StationState) : Shifts a a
  | filled : Shifts .claiming .active
  | short : Shifts .active .claiming
  | left : Shifts .leaving .quiet

theorem StationState.Shifts.trans {a b c : StationState} (h : a.Shifts b) (h' : b.Shifts c) : a.Shifts c := by
  cases h with
  | same => exact h'
  | filled => cases h' with
    | same => exact .filled
    | short => exact .same _
  | short => cases h' with
    | same => exact .short
    | filled => exact .same _
  | left => cases h' with
    | same => exact .left

/-- Cycles run after a count check where they ran before; other states stay. -/
theorem StationState.Shifts.eq_or_cyclesRun {a b : StationState} (h : a.Shifts b) :
    b = a ∨ (a.cyclesRun = true ∧ b.cyclesRun = true) := by
  cases h with
  | same => exact .inl rfl
  | filled | short | left => exact .inr ⟨rfl, rfl⟩

/-- The station controller after an operation: its state moved by count checks alone, the rest as it was. -/
structure State.Shifts (s t : State) : Prop where
  sc : t.sc = { s.sc with state := t.sc.state }
  moves : s.sc.state.Shifts t.sc.state

namespace State.Shifts

variable {s t u : State}

theorem of_sc (h : t.sc = s.sc) : s.Shifts t := ⟨by rw [h], by rw [h]; exact .same _⟩

theorem trans (h : s.Shifts t) (h' : t.Shifts u) : s.Shifts u :=
  ⟨by rw [h'.sc, h.sc], h.moves.trans h'.moves⟩

/-- What an operation does after one that leaves the station controller. -/
theorem after (h : t.Shifts u) (hsc : t.sc = s.sc) : s.Shifts u := (of_sc hsc).trans h

theorem image (h : s.Shifts t) : t.sc.image = s.sc.image := by rw [h.sc]

theorem self (h : s.Shifts t) : t.self = s.self := by unfold State.self; rw [h.image]

theorem cyclesRun (h : s.Shifts t) (hrun : s.sc.state.cyclesRun = true) : t.sc.state.cyclesRun = true := by
  rcases h.moves.eq_or_cyclesRun with heq | ⟨-, hrun'⟩
  · exact heq ▸ hrun
  · exact hrun'

theorem changeState {after : StationState} (h : s.sc.state.Shifts after) (reason : Reason) :
    s.Shifts (s.changeState after reason) := ⟨rfl, h⟩

theorem checkCounts (s : State) : s.Shifts s.checkCounts := by
  unfold State.checkCounts
  split
  · next hs => split
               · exact changeState (hs ▸ .filled) _
               · exact of_sc rfl
  · next hs => split
               · exact changeState (hs ▸ .short) _
               · exact of_sc rfl
  · next hs => split
               · exact changeState (hs ▸ .left) _
               · exact of_sc rfl
  all_goals exact of_sc rfl

/-- A count check after what leaves the station controller. -/
theorem checked (h : t.sc = s.sc) : s.Shifts t.checkCounts := (of_sc h).trans (checkCounts t)

theorem releaseOwn (s : State) (slot : Nat) : s.Shifts (s.releaseOwn slot) := by
  unfold State.releaseOwn
  split
  · exact checked (by simp)
  · exact of_sc rfl

theorem loseOwn (s : State) (slot : Nat) : s.Shifts (s.loseOwn slot) := by
  unfold State.loseOwn
  split
  · exact checked (by simp)
  · split
    · exact checked rfl
    · exact of_sc rfl

theorem recordClaim (s : State) (r : Nat) (c : Station) : s.Shifts (s.recordClaim r c) := by
  unfold State.recordClaim
  extract_lets before t u
  have hu : u.sc = s.sc := by
    simp only [u]
    clear_value before
    split
    · split <;> simp [t]
    all_goals rfl
  split
  · exact of_sc rfl
  · split
    · exact checked hu
    · exact of_sc hu

theorem applyClaim (s : State) (r c : Nat) : s.Shifts (s.applyClaim r c) := by
  unfold State.applyClaim
  extract_lets t
  have ht : s.Shifts t := by
    simp only [t]
    split
    · exact recordClaim ..
    · exact of_sc rfl
  split
  · exact ht.trans (of_sc rfl)
  · exact ht

theorem seeOwner (s : State) (slot : Nat) (z : Station) : s.Shifts (s.seeOwner slot z) := by
  unfold State.seeOwner
  extract_lets before put checked gone
  have hchecked : s.Shifts checked := by
    simp only [checked]
    split
    · exact State.Shifts.checked rfl
    · exact of_sc rfl
  have hgone : s.Shifts gone.1 := by
    simp only [gone]
    clear_value before checked
    split
    · split
      · exact hchecked
      · exact hchecked.trans (of_sc (by simp))
    all_goals exact hchecked
  clear_value gone
  split
  · exact hgone.trans (of_sc (State.offers_frame ..).1)
  · exact hgone.trans (of_sc (State.offersUnordered_frame ..).1)

theorem seeSilence (s : State) (slot : Nat) : s.Shifts (s.seeSilence slot) := by
  unfold State.seeSilence
  split
  · exact of_sc rfl
  · split
    · dsimp only
      split
      · exact checked rfl
      · exact of_sc rfl
    · exact of_sc rfl
  · split
    · exact of_sc rfl
    · dsimp only
      split
      · exact checked rfl
      · exact of_sc (by simp)

theorem judgeHeard (s : State) (slot : Nat) : s.Shifts (s.judgeHeard slot) := by
  unfold State.judgeHeard
  split
  · exact applyClaim ..
  · exact (seeOwner ..).trans (of_sc (foldl_keeps _ State.sc (by simp) _ _))
  · exact seeSilence ..
  · exact seeSilence ..

theorem judgeCompleted (s : State) (slot : Nat) : s.Shifts (s.judgeCompleted slot) := by
  unfold State.judgeCompleted
  split
  · split <;> exact of_sc rfl
  · split
    · exact checked (by simp)
    · exact of_sc rfl
  · exact of_sc rfl

theorem judgeBroken (s : State) (slot : Nat) : s.Shifts (s.judgeBroken slot) := by
  unfold State.judgeBroken
  split
  · split
    · split
      · exact checked (by simp)
      · exact of_sc rfl
    · exact of_sc rfl
  · split
    · exact checked rfl
    · exact of_sc rfl
  · exact of_sc rfl

theorem judge (s : State) : s.Shifts s.judge := by
  unfold State.judge
  split
  · exact of_sc rfl
  · extract_lets t
    refine State.Shifts.trans (t := t) ?_ (of_sc rfl)
    simp only [t]
    split
    · exact applyClaim ..
    · split
      · exact of_sc rfl
      · exact judgeCompleted ..
    · exact judgeBroken ..
    all_goals exact judgeHeard ..

theorem judgeLate (s : State) : s.Shifts s.judgeLate := by
  unfold State.judgeLate
  split
  · exact judge s
  · exact of_sc rfl

theorem frameLost (s : State) : s.Shifts s.frameLost := (judgeLate _).after (by simp)

theorem frameDone (s : State) (slot : Nat) (f : TxFrame) : s.Shifts (s.frameDone slot f) := by
  unfold State.frameDone
  extract_lets fb t u v
  have hv : v.sc = s.sc := by
    simp only [v, u, State.endFrame_frame, State.setFailures_frame]
    exact foldl_keeps _ State.sc (by simp) _ t
  split
  · exact (releaseOwn ..).after hv
  · exact of_sc hv

theorem frameBeaten (s : State) (slot : Nat) (f : TxFrame) : s.Shifts (s.frameBeaten slot f) := by
  unfold State.frameBeaten
  exact (loseOwn ..).after (by simp)

theorem endSlot (s : State) (slot : Nat) (late : Option (List Byte)) : s.Shifts (s.endSlot slot late) := by
  unfold State.endSlot
  dsimp only
  split
  · split
    · exact of_sc rfl
    · exact (judge _).after rfl
  · exact (judge _).after rfl

/-- A frame that is received halts the station on the own number, and else brings count checks alone. -/
theorem receive (s : State) (bytes : List Byte) (framingError : Bool) :
    s.receive bytes framingError = s.enterHalted .twin ∨
    (s.Shifts (s.receive bytes framingError) ∧ (s.receive bytes framingError).ct = s.ct) := by
  unfold State.receive
  split
  · exact .inr ⟨of_sc rfl, rfl⟩
  · split
    · unfold State.takeValid
      split
      · split
        · exact .inl rfl
        · exact .inr ⟨(judgeLate _).after (by simp), by simp⟩
      · split
        · split
          · exact .inl rfl
          · exact .inr ⟨of_sc rfl, rfl⟩
        · exact .inr ⟨(judgeLate _).after (by simp), by simp⟩
      · exact .inr ⟨of_sc rfl, rfl⟩
    · exact .inr ⟨(judgeLate _).after (by simp), by simp⟩
    · split
      · exact .inr ⟨(frameLost _).after rfl, by simp⟩
      · exact .inr ⟨frameLost s, by simp⟩

end State.Shifts

/-! ## The phases of the cycle timer (R2) -/

/-- R166: a configured station has slots. -/
theorem State.slots_pos {s : State} (h : s.sc.image.isSome = true) : 0 < s.slots := by
  obtain ⟨im, him⟩ := Option.isSome_iff_exists.1 h
  unfold State.slots
  rw [him]
  cases hs : im.slots <;> simp [hs, SlotCount.toNat]

theorem State.beginSlot_ct (s : State) (slot : Nat) :
    (s.beginSlot slot).ct = { s.ct with slotIndex := some slot, position := some (s.slotStart slot) } := by
  unfold State.beginSlot State.slotWork State.claimPolicy
  repeat' (first | (simp; done) | split | simp)

theorem State.endSlot_ct (s : State) (slot : Nat) (late : Option (List Byte)) :
    (s.endSlot slot late).ct = { s.ct with position := some (s.slotStart slot + frameRegion s.payload) } := by
  unfold State.endSlot
  dsimp only
  split
  · split <;> simp
  · simp

namespace State.TimerLawful

variable {s t : State}

/-- The law speaks of the station controller and the cycle timer alone. -/
theorem congr (h : s.TimerLawful) (hsc : t.sc = s.sc) (hct : t.ct = s.ct) : t.TimerLawful := by
  have hslots : t.slots = s.slots := by unfold State.slots; rw [hsc]
  exact {
    configured := by simpa only [hsc] using h.configured
    stopped := by simpa only [hsc, hct] using h.stopped
    listening := by simpa only [hsc, hct] using h.listening
    running := by simpa only [hsc, hct] using h.running
    slotIndex := by simpa only [hslots, hct] using h.slotIndex
    position := by simpa only [hct] using h.position
    proposal := by simpa only [hct] using h.proposal
    listenWindow := by simpa only [hct] using h.listenWindow
    opening := by simpa only [hct] using h.opening }

/-- The law where cycles run before and after, the image and the timer being as they were. -/
theorem run (h : s.TimerLawful) (hrun : s.sc.state.cyclesRun = true) (hrun' : t.sc.state.cyclesRun = true)
    (himage : t.sc.image = s.sc.image) (hct : t.ct = s.ct) : t.TimerLawful := by
  have hslots : t.slots = s.slots := by unfold State.slots; rw [himage]
  have hconfig : s.sc.state ≠ .config := fun hs => by simp [hs, StationState.cyclesRun] at hrun
  exact {
    configured := fun _ => himage ▸ h.configured hconfig
    stopped := fun hs => by rcases hs with hs | hs | hs <;> simp [hs, StationState.cyclesRun] at hrun'
    listening := fun hs => by simp [hs, StationState.cyclesRun] at hrun'
    running := fun _ => by simpa only [hct] using h.running hrun
    slotIndex := by simpa only [hslots, hct] using h.slotIndex
    position := by simpa only [hct] using h.position
    proposal := by simpa only [hct] using h.proposal
    listenWindow := by simpa only [hct] using h.listenWindow
    opening := by simpa only [hct] using h.opening }

/-- The law after count checks. -/
theorem shift (h : s.TimerLawful) (hs : s.Shifts t) (hct : t.ct = s.ct) : t.TimerLawful := by
  rcases hs.moves.eq_or_cyclesRun with heq | ⟨hrun, hrun'⟩
  · exact h.congr (by rw [hs.sc, heq]) hct
  · exact h.run hrun hrun' hs.image hct

/-- The states in which an opening can be in progress. -/
theorem states_of_opening (h : s.TimerLawful) (hphase : s.ct.phase = .opening) :
    s.sc.state = .listening ∨ s.sc.state.cyclesRun = true := by
  cases hs : s.sc.state with
  | listening => exact .inl rfl
  | learning | quiet | claiming | active | leaving => exact .inr rfl
  | config | lineFault | halted =>
    have := (h.stopped (by simp [hs])).1
    rw [hphase] at this
    cases this

theorem image_isSome (h : s.TimerLawful) (hs : s.sc.state = .listening ∨ s.sc.state.cyclesRun = true) :
    s.sc.image.isSome = true := by
  refine h.configured fun hc => ?_
  rcases hs with hs | hs <;> simp [hc, StationState.cyclesRun] at hs

/-- An opening in progress. -/
theorem ofOpening (himage : s.sc.image.isSome = true) (hs : s.sc.state = .listening ∨ s.sc.state.cyclesRun = true)
    (hphase : s.ct.phase = .opening) (hrole : s.ct.role ≠ .idle) (hslot : s.ct.slotIndex = none)
    (hposition : s.ct.position.isSome = true) (hproposal : s.ct.proposal.isSome = true ↔ s.ct.role = .participant)
    (hwindow : s.ct.listenWindow = none) (hopening : s.ct.opening.isSome = true) : s.TimerLawful where
  configured _ := himage
  stopped hc := by rcases hc with hc | hc | hc <;> simp [hc, StationState.cyclesRun] at hs
  listening _ := .inr ⟨hphase, hrole⟩
  running _ := .inr ⟨hphase, hrole⟩
  slotIndex k hk := by simp [hslot] at hk
  position := by simp [hphase, hposition]
  proposal := by simp [hphase, hproposal]
  listenWindow := by simp [hphase, hwindow]
  opening := by simp [hphase, hopening]

/-- CT waits in LISTENING. -/
theorem ofWaiting (himage : s.sc.image.isSome = true) (hs : s.sc.state = .listening) {c : CycleTimer} {w : Nat}
    (hct : s.ct = c.wait w) : s.TimerLawful := by
  constructor <;> simp [hct, hs, himage, CycleTimer.wait, CycleTimer.reset, StationState.cyclesRun]

/-- CT stopped where the station stands off the line. -/
theorem ofStopped (himage : s.sc.image.isSome = true) (hs : s.sc.state = .lineFault ∨ s.sc.state = .halted)
    {c : CycleTimer} (hct : s.ct = c.stop) : s.TimerLawful := by
  rcases hs with hs | hs <;> constructor <;>
    simp [hct, hs, himage, CycleTimer.stop, CycleTimer.reset, StationState.cyclesRun]

/-- CT in its slots. -/
theorem ofSlots (himage : s.sc.image.isSome = true) (hs : s.sc.state.cyclesRun = true) (hphase : s.ct.phase = .slots)
    (hrole : s.ct.role = .participant) (hslot : ∀ k, s.ct.slotIndex = some k → k < s.slots)
    (hposition : s.ct.position.isSome = true) (hproposal : s.ct.proposal = none) (hwindow : s.ct.listenWindow = none)
    (hopening : s.ct.opening = none) : s.TimerLawful where
  configured _ := himage
  stopped hc := by rcases hc with hc | hc | hc <;> simp [hc, StationState.cyclesRun] at hs
  listening hc := by simp [hc, StationState.cyclesRun] at hs
  running _ := .inl ⟨hphase, hrole⟩
  slotIndex k hk := ⟨hphase, hslot k hk⟩
  position := by simp [hphase, hposition]
  proposal := by simp [hphase, hproposal]
  listenWindow := by simp [hphase, hwindow]
  opening := by simp [hphase, hopening]

/-- Another position or another record of the opening in progress. -/
theorem reopen (h : s.TimerLawful) (hphase : s.ct.phase = .opening) (hsc : t.sc = s.sc) {p : Option Nat} {o : Opening}
    (hp : p.isSome = true) (hct : t.ct = { s.ct with position := p, opening := some o }) : t.TimerLawful := by
  have hstates := h.states_of_opening hphase
  have hrole : s.ct.role ≠ .idle := by
    rcases hstates with hs | hs
    · rcases h.listening hs with ⟨hw, -⟩ | ⟨-, hr⟩
      · rw [hphase] at hw
        cases hw
      · exact hr
    · rcases h.running hs with ⟨hw, -⟩ | ⟨-, hr⟩
      · rw [hphase] at hw
        cases hw
      · exact hr
  have hslot : s.ct.slotIndex = none := Option.eq_none_iff_forall_not_mem.2 fun k hk => by
    have := (h.slotIndex k hk).1
    rw [hphase] at this
    cases this
  have hwindow : s.ct.listenWindow = none := by
    have := h.listenWindow
    rw [hphase] at this
    simpa using this
  refine .ofOpening (hsc ▸ h.image_isSome hstates) (hsc ▸ hstates) ?_ ?_ ?_ ?_ ?_ ?_ ?_ <;> rw [hct]
  · exact hphase
  · exact hrole
  · exact hslot
  · exact hp
  · simpa [hphase] using h.proposal
  · exact hwindow
  · rfl

/-- Another position in the slots. -/
theorem inSlots (h : s.TimerLawful) (hrun : s.sc.state.cyclesRun = true) (hphase : s.ct.phase = .slots)
    (hsc : t.sc = s.sc) {k : Option Nat} {p : Nat} (hct : t.ct = { s.ct with slotIndex := k, position := some p })
    (hk : ∀ j, k = some j → j < s.slots) : t.TimerLawful := by
  have hslots : t.slots = s.slots := by unfold State.slots; rw [hsc]
  have hrole : s.ct.role = .participant := by
    rcases h.running hrun with ⟨-, hr⟩ | ⟨ho, -⟩
    · exact hr
    · rw [hphase] at ho
      cases ho
  refine .ofSlots (hsc ▸ h.image_isSome (.inr hrun)) (hsc ▸ hrun) ?_ ?_ ?_ ?_ ?_ ?_ ?_ <;> rw [hct]
  · exact hphase
  · exact hrole
  · exact hslots ▸ hk
  · rfl
  · simpa [hphase] using h.proposal
  · simpa [hphase] using h.listenWindow
  · simpa [hphase] using h.opening

/-- The station begins to take part in an opening. -/
theorem participate (h : s.TimerLawful) (hs : s.sc.state = .listening ∨ s.sc.state.cyclesRun = true)
    (hsc : t.sc = s.sc) {c : Cycle} {p : Nat} (hct : t.ct = s.ct.participate c p) : t.TimerLawful := by
  refine .ofOpening (hsc ▸ h.image_isSome hs) (hsc ▸ hs) ?_ ?_ ?_ ?_ ?_ ?_ ?_ <;>
    rw [hct] <;> simp [CycleTimer.participate]

/-- The station begins to observe an opening. -/
theorem observe (himage : t.sc.image.isSome = true) (hs : t.sc.state = .listening ∨ t.sc.state.cyclesRun = true)
    {c : CycleTimer} {p : Nat} (hct : t.ct = c.observe p) : t.TimerLawful := by
  refine .ofOpening himage hs ?_ ?_ ?_ ?_ ?_ ?_ ?_ <;> rw [hct] <;> simp [CycleTimer.observe]

theorem enterHalted (h : s.TimerLawful) (hs : s.sc.state = .listening ∨ s.sc.state.cyclesRun = true)
    (reason : FaultReason) : (s.enterHalted reason).TimerLawful :=
  .ofStopped (s := s.enterHalted reason) (h.image_isSome hs) (.inr rfl) rfl

theorem enterLineFault (h : s.TimerLawful) (hs : s.sc.state ≠ .config) (reason : FaultReason) :
    (s.enterLineFault reason).TimerLawful :=
  .ofStopped (s := s.enterLineFault reason) (h.configured hs) (.inl rfl) rfl

/-- What SC does at opening ends, in a station in which an opening was in progress. -/
theorem learnAt_spec (s : State) (role : OpeningRole) (backward : Bool)
    (hs : s.sc.state = .listening ∨ s.sc.state.cyclesRun = true) :
    (s.learnAt role backward).sc.image = s.sc.image ∧ (s.learnAt role backward).sc.state.cyclesRun = true := by
  unfold State.learnAt
  split
  · exact ⟨rfl, rfl⟩
  · split
    · refine ⟨rfl, ?_⟩
      show StationState.cyclesRun (if s.sc.talkIntent then .claiming else .quiet) = true
      split <;> rfl
    · next hl _ => exact ⟨rfl, by rw [hl]; rfl⟩
  all_goals
    next hl => simp [hl, StationState.cyclesRun] at hs ⊢

theorem finishOpening (himage : s.sc.image.isSome = true)
    (hs : s.sc.state = .listening ∨ s.sc.state.cyclesRun = true) (o : Opening) : (s.finishOpening o).TimerLawful := by
  unfold State.finishOpening
  extract_lets deadlines ob t u v
  have hv : v.sc = s.sc ∧ v.ct = s.ct.settle o.number := by
    simp only [v]
    split <;> simp [u, t]
  obtain ⟨himage', hrun⟩ := learnAt_spec v s.ct.role o.backward (hv.1 ▸ hs)
  refine .ofSlots (by rw [himage', hv.1]; exact himage) hrun ?_ ?_ ?_ ?_ ?_ ?_ ?_ <;>
    simp only [State.learnAt_frame, hv.2] <;> simp [CycleTimer.settle]

theorem endShape (h : s.TimerLawful) (hphase : s.ct.phase = .opening) (o : Opening) (shape : Byte) :
    (s.endShape o shape).TimerLawful := by
  have hs := h.states_of_opening hphase
  have himage := h.image_isSome hs
  unfold State.endShape
  split
  · have hcount : (if o.numberDamaged then s.countDamagedOpening else s).sc = s.sc := by split <;> rfl
    have hct : (if o.numberDamaged then s.countDamagedOpening else s).ct = s.ct := by split <;> rfl
    exact (h.congr hcount hct).enterHalted (hcount ▸ hs) _
  · split
    · exact finishOpening (s := s.resync .backward _) himage (.inr rfl) o
    · exact finishOpening himage hs o

theorem damageOpening (h : s.TimerLawful) : s.damageOpening.TimerLawful := by
  unfold State.damageOpening
  split
  · next hphase =>
    have hposition : s.ct.position.isSome = true := h.position.2 (.inl hphase)
    split
    · exact h
    · split
      · exact h
      all_goals
        split
        · next hl => exact ofWaiting (s := s.listenAgain) (h.image_isSome (.inl hl.1)) hl.1 rfl
        · exact h.reopen hphase (by rfl) hposition (by rfl)
  · exact h

theorem recognizePulse (h : s.TimerLawful) (run : Nat) (inWindow : Bool) :
    (s.recognizePulse run inWindow).TimerLawful := by
  unfold State.recognizePulse
  split
  · exact h
  · split
    · next hl => exact observe (h.image_isSome (.inl hl.1)) (.inl hl.1) rfl
    · split
      · next hstray =>
        have hrun : s.sc.state.cyclesRun = true := (Bool.and_eq_true_iff.1 hstray.1).1
        exact observe (h.image_isSome (.inr hrun)) (.inr rfl) rfl
      · split
        · exact h.congr rfl rfl
        · exact h

end State.TimerLawful

theorem State.listens_cyclesRun {s : State} (h : s.listens = true) : s.sc.state.cyclesRun = true := by
  simp only [State.listens, Bool.and_eq_true] at h
  exact h.1.1.1.1.1.1

theorem State.windowOpen_cyclesRun {s : State} (h : s.windowOpen = true) : s.sc.state.cyclesRun = true := by
  simp only [State.windowOpen, Bool.and_eq_true] at h
  exact h.1.1.1

theorem StationState.cyclesRun_of_talking {a : StationState} (h : a.talking = true) : a.cyclesRun = true := by
  cases a with
  | claiming | active => rfl
  | config | listening | learning | quiet | leaving | lineFault | halted => cases h

theorem State.cancelSerial_sc_ct (s : State) (n : Serial) :
    (s.cancelSerial n).2.sc = s.sc ∧ (s.cancelSerial n).2.ct = s.ct := by
  rcases s.cancelSerial_cases n with h | h | ⟨-, -, h | ⟨-, h⟩⟩ <;> simp [h]

theorem State.edge_sc_ct (s : State) (i : TrigInput) : (s.edge i).sc = s.sc ∧ (s.edge i).ct = s.ct := by
  simp

/-- R149: LEAVE leads from a talking state to LEAVING or QUIET. -/
theorem State.leaveLine_sc (s : State) :
    s.leaveLine.sc.image = s.sc.image ∧ StationState.Shifts .leaving s.leaveLine.sc.state := by
  unfold State.leaveLine
  extract_lets sc t
  have h := State.Shifts.checkCounts (t.sweepOutbox (OutEntry.atLeave t.ob))
  have hsc : (t.sweepOutbox (OutEntry.atLeave t.ob)).sc = t.sc := by simp
  exact ⟨by rw [h.image, hsc]; rfl, by
    have hmoves := h.moves
    rw [hsc] at hmoves
    exact hmoves⟩

/-- R2: every row keeps the cycle timer lawful. -/
theorem rowEffects_timer (c : Instr) : RowEffects c fun s t => s.TimerLawful → t.TimerLawful where
  reset _ s reason _ := by
    constructor <;>
      simp [State.resetCondition, State.reset, CycleTimer.reset, StationState.cyclesRun]
  configure _ s p im hc _ h := by
    obtain ⟨hphase, hrole⟩ := h.stopped (.inl hc)
    exact {
      configured := fun _ => rfl
      stopped := fun _ => ⟨hphase, hrole⟩
      listening := fun hl => by simp [State.configureWith, hc] at hl
      running := fun hl => by simp [State.configureWith, hc, StationState.cyclesRun] at hl
      slotIndex := fun k hk => by
        have := (h.slotIndex k hk).1
        rw [hphase] at this
        cases this
      position := h.position
      proposal := h.proposal
      listenWindow := h.listenWindow
      opening := h.opening }
  start s im _ him _ := .ofWaiting (by simp [State.startUp, State.changeState, State.offer, him]) rfl
    (show (s.startUp im).ct = s.ct.wait s.listenTime by simp [State.startUp])
  leave s ht h := by
    obtain ⟨himage, hshift⟩ := s.leaveLine_sc
    refine h.run (StationState.cyclesRun_of_talking ht) ?_ himage (by simp)
    cases hshift.eq_or_cyclesRun with
    | inl heq => rw [heq]; rfl
    | inr hrun => exact hrun.2
  join s hq h := h.run (by rw [hq]; rfl) rfl rfl rfl
  submit _ _ _ _ _ _ h := h.congr rfl rfl
  cancel s n h := h.congr (s.cancelSerial_sc_ct n).1 (s.cancelSerial_sc_ct n).2
  takeEvents _ _ h := h.congr rfl rfl
  zeroCounters _ h := h.congr rfl rfl
  drive _ _ _ _ _ _ h := h.congr rfl rfl
  bind _ _ i _ _ _ h := by cases i <;> exact h.congr rfl rfl
  unbind _ i h := by cases i <;> exact h.congr rfl rfl
  edge s i h := h.congr (s.edge_sc_ct i).1 (s.edge_sc_ct i).2
  period _ h := h.congr rfl rfl
  expiry _ hl _ h := h.participate (.inl hl) rfl rfl
  opens _ hw h := h.participate (.inr (State.windowOpen_cyclesRun hw)) rfl rfl
  deferred s hl _ _ h := by
    have hshift : s.Shifts (s.countFormat.note .invalid).judge := (State.Shifts.judge _).after (by simp)
    exact (h.shift hshift (by simp)).participate (.inr (hshift.cyclesRun (State.listens_cyclesRun hl))) rfl rfl
  pulseRelease _ _ _ hphase _ _ h := h.reopen hphase (by rfl) rfl (by rfl)
  noEcho _ _ _ hline _ _ _ h := (h.enterLineFault (fun hs => by simp [hs, StationState.onLine] at hline) _).congr rfl rfl
  pulse _ run inWindow h := h.recognizePulse run inWindow
  numberLoss _ _ _ hphase _ _ h := h.reopen hphase (by rfl) (h.position.2 (.inl hphase)) (by rfl)
  numberEnd _ _ _ _ _ hphase _ h := h.reopen hphase (by rfl) (p := some 54) rfl (by rfl)
  shapeEnd _ o shape _ hphase _ h := h.endShape hphase o shape
  damage _ h := h.damageOpening
  slotBegin s slot hslot h := by
    obtain ⟨hrun, hphase, hlt⟩ := State.nextSlot_spec hslot
    refine h.inSlots hrun hphase (s.beginSlot_frame slot).1 (s.beginSlot_ct slot) fun k hk => ?_
    obtain rfl : slot = k := Option.some.inj hk
    rcases hlt with ⟨-, rfl⟩ | ⟨j, -, -, hlt, rfl⟩
    · exact State.slots_pos (h.image_isSome (.inr hrun))
    · exact hlt
  slotEnd s slot late _ hrun hphase _ _ h := by
    have hmoved : ({ s with ct := { s.ct with position := some (s.slotStart slot + frameRegion s.payload) } } :
        State).TimerLawful :=
      h.inSlots hrun hphase rfl rfl fun k hk => (h.slotIndex k hk).2
    obtain ⟨hsc, hmoves⟩ := State.Shifts.endSlot s slot late
    exact hmoved.shift ⟨hsc, hmoves⟩ (s.endSlot_ct slot late)
  frameDone s f slot _ _ h := h.shift (.frameDone s slot f) (by simp)
  frameBroken s f slot _ _ h := h.congr (by simp) (by simp)
  frameBeaten s f slot _ _ h := h.shift (.frameBeaten s slot f) (by simp)
  claimBeaten _ _ _ _ _ _ h := h.congr rfl rfl
  claimBroken _ _ _ _ _ h := h.congr rfl rfl
  claimDone _ _ _ _ _ h := h.congr rfl rfl
  received s bs framingError hl h := by
    rcases State.Shifts.receive s bs framingError with heq | ⟨hshift, hct⟩
    · exact heq ▸ h.enterHalted (.inr (State.listens_cyclesRun hl)) _
    · exact h.shift hshift hct
  lostAhead _ _ h := h.congr rfl rfl
  frameLost s _ h := h.shift (.frameLost s) (by simp)
  stray _ _ h := h.congr rfl rfl
  stuck _ hline h := (h.enterLineFault (fun hs => by simp [hs, StationState.onLine] at hline) _).congr rfl rfl
  stuckAgain _ _ h := h.congr rfl rfl
  restored s hs h := .ofWaiting (h.configured (by simp [hs])) rfl
    (show _ = s.ct.wait s.listenTime by simp)
  fallingEdge _ _ h := h.congr rfl rfl

/-- Settles O56: every row keeps the timer lawful, and so do the bit time and the waiting of commands. -/
theorem stepKeepsTimer : Obligations.StepKeepsTimer := fun _ _ hst hs =>
  KeptByRows.step
    { port := fun _ _ h => h.congr rfl rfl
      hold := fun _ _ h => h.congr rfl rfl
      pins := fun _ _ _ h => h.congr rfl rfl
      effects := rowEffects_timer }
    (fun _ _ h => h.congr rfl rfl)
    (fun _ h => { h with
      position := by simpa [State.tick] using h.position
      listenWindow := by simpa [State.tick] using h.listenWindow }) hst hs

/-! ## The transitions of the station state (R140, R144 to R156) -/

/-- A transition that Chapter 8 gives. -/
inductive StationState.Moves : StationState → StationState → Prop where
  | counted {a b : StationState} (h : a.Shifts b) : Moves a b
  | started : Moves .config .listening
  | learned (talkIntent : Bool) : Moves .learning (if talkIntent then .claiming else .quiet)
  | joined : Moves .quiet .claiming
  | leave {a b : StationState} (ha : a.talking = true) (hb : Shifts .leaving b) : Moves a b
  | learning {a : StationState} (ha : a = .listening ∨ a.cyclesRun = true) : Moves a .learning
  | fault {a : StationState} (ha : a.onLine = true) : Moves a .lineFault
  | halt {a : StationState} (ha : a = .listening ∨ a.cyclesRun = true) : Moves a .halted
  | restored : Moves .lineFault .listening

/-- What a row does to the station state and the image. -/
def State.Follows (c : Instr) (s t : State) : Prop :=
  let resets : Prop := c = .powerOnReset ∨ c = .pinReset ∨ ∃ rest tail a b, c = .reset rest tail a b
  (s.sc.state.Moves t.sc.state ∨ (t.sc.state = .config ∧ resets)) ∧
  (t.sc.image = s.sc.image ∨ (s.sc.state = .config ∧ ∃ rest tail, c = .configure rest tail) ∨
    (t.sc.image = none ∧ resets))

namespace State.Follows

variable {c : Instr} {s t : State}

theorem move (h : s.sc.state.Moves t.sc.state) (himage : t.sc.image = s.sc.image) : s.Follows c t :=
  ⟨.inl h, .inl himage⟩

theorem shift (h : s.Shifts t) : s.Follows c t := move (.counted h.moves) h.image

theorem stay (h : t.sc = s.sc) : s.Follows c t := shift (.of_sc h)

/-- Opening ends move a LISTENING station to LEARNING, and a LEARNING one out of it. -/
theorem learnAt (h : t.sc = s.sc) (role : OpeningRole) (backward : Bool) : s.Follows c (t.learnAt role backward) := by
  unfold State.learnAt
  rw [h]
  split
  · next hs => exact move (.learning (.inl hs)) (by rw [← h]; rfl)
  · next hs =>
    split
    · exact move (hs ▸ .learned s.sc.talkIntent) (by rw [← h]; rfl)
    · exact stay h
  all_goals exact stay h

theorem finishOpening (s : State) (o : Opening) : s.Follows c (s.finishOpening o) := by
  unfold State.finishOpening
  extract_lets deadlines ob t u v
  have hv : v.sc = s.sc := by
    simp only [v]
    split <;> simp [u, t]
  exact learnAt hv _ _

/-- A station that has resynchronized on a backward number stays in LEARNING at this opening's end. -/
theorem finishOpening_backward (hs : s.sc.state = .learning) {o : Opening} (ho : o.backward = true) :
    (s.finishOpening o).sc = s.sc := by
  unfold State.finishOpening
  extract_lets deadlines ob t u v
  have hv : v.sc = s.sc := by
    simp only [v]
    split <;> simp [u, t]
  unfold State.learnAt
  rw [hv, hs]
  simp [ho, hv]

theorem endShape (hs : s.sc.state = .listening ∨ s.sc.state.cyclesRun = true) (o : Opening) (shape : Byte) :
    s.Follows c (s.endShape o shape) := by
  unfold State.endShape
  split
  · exact move (.halt hs) (by split <;> rfl)
  · split
    · next hback =>
      have hsc := finishOpening_backward (s := s.resync .backward (.strayOpening .backward s.ct.cycle (some o.number)))
        rfl hback
      exact move (by rw [hsc]; exact .learning hs) (by rw [hsc]; rfl)
    · exact finishOpening s o

theorem recognizePulse (s : State) (run : Nat) (inWindow : Bool) : s.Follows c (s.recognizePulse run inWindow) := by
  unfold State.recognizePulse
  split
  · exact stay rfl
  · split
    · exact stay rfl
    · split
      · next hstray => exact move (.learning (.inr (Bool.and_eq_true_iff.1 hstray.1).1)) rfl
      · split <;> exact stay rfl

end State.Follows

/-- R140 to R156: every row follows the transitions. -/
theorem rowEffects_follows (c : Instr) : RowEffects c fun s t => s.TimerLawful → s.Follows c t where
  reset hc _ _ _ := ⟨.inr ⟨rfl, hc⟩, .inr (.inr ⟨rfl, hc⟩)⟩
  configure hc _ _ _ hs _ _ := ⟨.inl (.counted (.same _)), .inr (.inl ⟨hs, hc⟩)⟩
  start s im hs _ _ := .move (hs ▸ .started) rfl
  leave s ht _ := .move (.leave ht s.leaveLine_sc.2) s.leaveLine_sc.1
  join s hs _ := .move (hs ▸ .joined) rfl
  submit _ _ _ _ _ _ _ := .stay rfl
  cancel s n _ := .stay (s.cancelSerial_sc_ct n).1
  takeEvents _ _ _ := .stay rfl
  zeroCounters _ _ := .stay rfl
  drive _ _ _ _ _ _ _ := .stay rfl
  bind s _ i _ _ _ _ := .stay (State.setTrigger_frame ..).1
  unbind s i _ := .stay (State.setTrigger_frame ..).1
  edge s i _ := .stay (s.edge_sc_ct i).1
  period _ _ := .stay rfl
  expiry _ _ _ _ := .stay rfl
  opens _ _ _ := .stay rfl
  deferred s _ _ _ _ := by
    have hshift : s.Shifts (s.countFormat.note .invalid).judge := (State.Shifts.judge _).after (by simp)
    exact .move (.counted hshift.moves) hshift.image
  pulseRelease _ _ _ _ _ _ _ := .stay rfl
  noEcho _ _ _ hline _ _ _ _ := .move (.fault hline) rfl
  pulse s run inWindow _ := .recognizePulse s run inWindow
  numberLoss _ _ _ _ _ _ _ := .stay rfl
  numberEnd _ _ _ _ _ _ _ _ := .stay rfl
  shapeEnd _ o shape _ hphase _ h := .endShape (h.states_of_opening hphase) o shape
  damage _ _ := .stay (by simp)
  slotBegin s slot _ _ := .stay (s.beginSlot_frame slot).1
  slotEnd s slot late _ _ _ _ _ _ := .shift (.endSlot s slot late)
  frameDone s f slot _ _ _ := .shift (.frameDone s slot f)
  frameBroken s f slot _ _ _ := .stay (by simp)
  frameBeaten s f slot _ _ _ := .shift (.frameBeaten s slot f)
  claimBeaten _ _ _ _ _ _ _ := .stay rfl
  claimBroken _ _ _ _ _ _ := .stay rfl
  claimDone _ _ _ _ _ _ := .stay rfl
  received s bs framingError hl _ := by
    rcases State.Shifts.receive s bs framingError with heq | ⟨hshift, -⟩
    · exact heq ▸ .move (.halt (.inr (State.listens_cyclesRun hl))) rfl
    · exact .shift hshift
  lostAhead _ _ _ := .stay rfl
  frameLost s _ _ := .shift (.frameLost s)
  stray _ _ _ := .stay rfl
  stuck _ hline _ := .move (.fault hline) rfl
  stuckAgain _ _ _ := .stay rfl
  restored _ hs _ := .move (hs ▸ .restored) rfl
  fallingEdge _ _ _ := .stay rfl

/-- Settles O49: every row's move is one of the transitions, and each of these is in the table. -/
theorem stationMovesFollowTransitions : Obligations.StationMovesFollowTransitions := by
  intro c s t hs hst resets allowed
  obtain ⟨hmoves, himage⟩ := (rowEffects_follows c).exec
    { refl := fun s _ => .stay rfl
      before := fun s hp t h hs => h (hs.congr rfl rfl)
      port := fun _ _ _ h => h
      hold := fun _ _ _ h => h
      pins := fun _ _ _ _ h => h } hst hs
  have htable : ∀ a b : StationState, a.Moves b → allowed a b = true := by
    intro a b h
    cases h with
    | counted h =>
      cases h with
      | same => cases a <;> rfl
      | filled | short | left => rfl
    | started | joined | restored => rfl
    | learned talkIntent => cases talkIntent <;> rfl
    | leave ha hb =>
      cases hb with
      | same | left => cases a <;> first | rfl | cases ha
    | learning ha | halt ha => cases a <;> first | rfl | (rcases ha with ha | ha <;> cases ha)
    | fault ha => cases a <;> first | rfl | cases ha
  exact ⟨hmoves.imp_left (htable _ _), himage⟩

end Sys2Proof.Machine
end

section
/-! PROOFS. The state after reset: the laws that every step keeps hold in it. -/

namespace Sys2Proof.Machine

/-- R142: no channel runs after a reset. -/
theorem reset_channel (c : Channel) : State.reset.cg.channels.get c = .idle := by
  simp [State.reset, ChannelGenerators.reset]

/-- R142: no binding stands after a reset. -/
theorem reset_binding (i : TrigInput) : (State.reset.trigger i).binding = none := by
  cases i <;> rfl

theorem reset_channelsLawful : State.reset.ChannelsLawful where
  channels c := by rw [reset_channel]; trivial
  atRest _ c := by rw [reset_channel]; trivial
  records := by simp [State.reset, CueQueue.reset]
  entries := by simp [State.reset]
  bindings i b hb := by simp [reset_binding] at hb

theorem reset_timerLawful : State.reset.TimerLawful := by
  constructor <;> simp [State.reset, CycleTimer.reset, StationState.cyclesRun]

theorem reset_rosterLawful : State.reset.RosterLawful := by
  constructor <;>
    simp [State.reset, SlotTable.reset, SlotTable.present, SlotTable.heldSlots, slotsWhere, CycleTimer.reset,
      SlotReport.blank]

theorem reset_ownSlotsLawful : State.reset.OwnSlotsLawful := by
  constructor <;>
    simp [State.reset, SlotTable.reset, State.heldCount, State.claimedCount, SlotTable.heldSlots,
      SlotTable.claimedSlots, slotsWhere, FrameBuilder.reset, SlotReport.blank]

theorem reset_dueLawful : State.reset.DueLawful := by
  constructor <;>
    simp [State.reset, CueQueue.reset, CycleTimer.reset, FrameBuilder.reset, StationState.cyclesRun]
  case bindings =>
    intro i b hb
    exact absurd ((reset_binding i).symm.trans hb) nofun

theorem reset_lineLawful : State.reset.LineLawful := by
  constructor <;>
    simp [State.reset, LineController.reset, FrameBuilder.reset, CycleTimer.reset]

/-- Settles O50: each law at the reset values. -/
theorem lawsHoldAtReset : Obligations.LawsHoldAtReset :=
  ⟨EventQueue.reset_lawful, Counters.zero_lawful, .reset, ⟨Nat.zero_le _, List.nodup_nil⟩, .ofNil rfl,
    reset_channelsLawful, reset_timerLawful, reset_rosterLawful, reset_ownSlotsLawful, reset_dueLawful,
    reset_lineLawful⟩

end Sys2Proof.Machine
end

section
/-! PROOFS. The host commands: what a served command is taken on, the resets, the transactions without effect, and the station, cue, channel and trigger commands with their refusals. -/

namespace Sys2Proof.Machine

variable {s : State}

/-! ## Served commands (R160, R161, R164) -/

/-- R161: a command with enough bytes is taken on the state as clocked in. -/
theorem State.command_taken (h : s.Serving) {code : Byte} {expected : Nat} {rest : List Byte}
    (hlen : expected ≤ rest.length + 1) (tail : List Bool) (taken : State → State) :
    s.command code expected rest tail taken = taken (s.clockedIn (code :: rest) tail) := by
  rw [State.command_serving h, if_neg (by omega)]

/-- R161: a command with too few bytes is answered SHORT. -/
theorem State.command_short (h : s.Serving) {code : Byte} {expected : Nat} {rest : List Byte}
    (hlen : rest.length + 1 < expected) (tail : List Bool) (taken : State → State) :
    s.command code expected rest tail taken =
      (s.clockedIn (code :: rest) tail).answered code .short (be2 (rest.length + 1) ++ be2 expected) := by
  rw [State.command_serving h, if_pos hlen]

/-- R164: a gated command of a configured station with enough bytes is taken. -/
theorem State.gated_taken (h : s.Serving) (himage : s.sc.image.isSome = true) {code : Byte} {expected : Nat}
    {rest : List Byte} (hlen : expected ≤ rest.length + 1) (tail : List Bool) (taken : State → State) :
    s.command code expected rest tail (fun t => t.gated code taken) = taken (s.clockedIn (code :: rest) tail) := by
  rw [State.command_taken h hlen, State.gated_configured (s := s.clockedIn (code :: rest) tail) himage]

/-- R164: a gated command of a station with no image is refused. -/
theorem State.gated_refused (h : s.Serving) (himage : s.sc.image = none) {code : Byte} {expected : Nat}
    {rest : List Byte} (hlen : expected ≤ rest.length + 1) (tail : List Bool) (taken : State → State) :
    s.command code expected rest tail (fun t => t.gated code taken) =
      (s.clockedIn (code :: rest) tail).answered code .notConfigured [] := by
  rw [State.command_taken h hlen, State.gated_unconfigured (s := s.clockedIn (code :: rest) tail) himage]

/-! ## Resets (section 8.2) -/

/-- Settles O3: each row by its guard, the reset condition written out. -/
theorem resetsReachResetValues : Obligations.ResetsReachResetValues := by
  refine ⟨fun s => ⟨?_, fun h => ?_, fun h => ?_⟩, fun a b selLow s h => ?_, fun rest tail a b s h => ?_⟩
  · have hcounter : StartReason.powerOn.code :: be2 (0 : Serial).toNat = [0, 0, 0] := by decide
    simp only [exec, execPowerOnReset, State.resetCondition, hcounter]
    rfl
  · simp only [exec, execPinReset, h]
    rfl
  · simp only [exec, execPinReset, h]
    rfl
  · simp only [exec, execResetReleased, h]
    rfl
  · simp only [exec, execReset]
    rw [State.command_taken h (by omega)]
    rfl

/-! ## Transactions without effect and early refusals -/

/-- Settles O4: a transaction by the port's state, a command by its length, a gated command by the image. -/
theorem transactionsAndEarlyRefusals : Obligations.TransactionsAndEarlyRefusals := by
  refine ⟨⟨fun s hh ht => ?_, fun tail s h => ?_, fun code rest tail s h _ => ?_, fun bytes tail s hh ht => ?_,
    fun rest tail s h => ?_⟩, fun rest tail s h => ?_, fun rest tail s h himage => ?_⟩
  · simp [exec, execTransactionOpen, hh, ht, HostPort.openTransaction]
  · simp only [exec, execEmptyTransaction]
    rw [State.selRise_serving h]
  · simp only [exec, execUnknownCommand]
    rw [State.selRise_serving h]
    rfl
  · simp [exec, execIgnoredTransactionEnd, hh, ht, State.selRise, HostPort.endIgnored]
  · simp only [exec, execNop]
    rw [State.command_taken h (by omega)]
    rfl
  · intro short
    have answered : ∀ (code : Byte) (expected : Nat) (taken : State → State), rest.length + 1 < expected →
        Host.Outcome.next (s.command code expected rest tail taken) = short code expected := fun _ _ _ hlen => by
      rw [State.command_short h hlen]
    refine ⟨answered _ _ _, answered _ _ _, answered _ _ _, fun hlen => ⟨answered _ _ _ hlen, answered _ _ _ hlen,
      answered _ _ _ hlen, answered _ _ _ hlen, answered _ _ _ hlen⟩, answered _ _ _, answered _ _ _⟩
  · intro refused
    have answered : ∀ (code : Byte) (expected : Nat) (taken : State → State), expected ≤ rest.length + 1 →
        Host.Outcome.next (s.command code expected rest tail fun t => t.gated code taken) = refused code :=
      fun _ _ _ hlen => by rw [State.gated_refused h himage hlen]
    refine ⟨answered _ _ _ (by omega), answered _ _ _ (by omega), answered _ _ _ (by omega),
      fun hlen => ⟨answered _ _ _ hlen, answered _ _ _ hlen, answered _ _ _ hlen, answered _ _ _ hlen,
        answered _ _ _ hlen⟩, answered _ _ _, answered _ _ _⟩

/-! ## Station commands (R144, R145, R149, R151) -/

/-- R168: where LEAVE and SUBMIT_CUE are taken. -/
theorem StationState.talking_iff (a : StationState) : a.talking = true ↔ a = .claiming ∨ a = .active := by
  cases a <;> simp [StationState.talking]

theorem StationState.talking_eq_false {a : StationState} (h1 : a ≠ .claiming) (h2 : a ≠ .active) : a.talking = false := by
  simpa [StationState.talking_iff, h1, h2] using Bool.eq_false_iff (b := a.talking)

/-- R19: a table of FREE entries shows no slot as anyone's. -/
theorem slotsWhere_freeEntries {p : SlotView → Bool} (hp : p .free = false) (first n : Nat) :
    slotsWhere p first (List.replicate n { view := .free, failures := 0 }) = [] := by
  induction n generalizing first with
  | zero => rfl
  | succ n ih => simp [List.replicate_succ, slotsWhere, hp, ih]

/-- R156: a change of the station state writes the state, the staging list and one record. -/
theorem State.changeState_eq (s : State) (after : StationState) (reason : Reason) :
    s.changeState after reason = { s with
      sc := { s.sc with state := after }
      fb := { s.fb with staging := if after.stages then s.fb.staging else [] }
      ev := s.ev.offer (.stateChanged s.sc.state after reason s.ct.cycle s.heldCount) } := rfl

/-- R145: what START makes of a configured station. -/
theorem State.startUp_eq {im : Image} (hstate : s.sc.state = .config) (himage : s.sc.image = some im) :
    s.startUp im = { s with
      sc := { s.sc with state := .listening, talkIntent := im.role == Role.talker }
      ct := { phase := .waiting, cycle := s.ct.cycle, history := s.ct.history, slotIndex := none, position := none,
              role := .observer, proposal := none, opening := none
              listenWindow := some (3 * (80 + im.slots.toNat * (10 * (im.payload.toNat + 5) + 20))) }
      st := { s.st with entries := List.replicate (im.slots.toNat - 1) { view := .free, failures := 0 } }
      fb := { s.fb with staging := [] }
      ev := s.ev.offer (.stateChanged .config .listening .start s.ct.cycle 0) } := by
  have hlisten : s.listenTime = 3 * (80 + im.slots.toNat * (10 * (im.payload.toNat + 5) + 20)) := by
    simp [State.listenTime, State.slots, State.payload, himage, nominalCycle, slotLength, frameRegion]
  have hheld : ∀ t : State, t.st.entries = List.replicate (im.slots.toNat - 1) { view := .free, failures := 0 } →
      t.heldCount = 0 := fun t ht => by
    simp [State.heldCount, SlotTable.heldSlots, ht, slotsWhere_freeEntries (p := SlotView.heldBy t.self) rfl]
  unfold State.startUp
  rw [State.changeState_eq, hheld _ rfl, ← hstate, hlisten]
  rfl

/-- Settles O7: each command by the state and the image. -/
theorem stationCommandsByState : Obligations.StationCommandsByState := by
  refine ⟨fun rest tail s im h hstate himage => ?_, fun rest tail s h => ?_⟩
  · simp only [exec, execStart]
    rw [State.command_taken h (by omega)]
    have hstate' : (s.clockedIn (0x03 :: rest) tail).sc.state = .config := hstate
    have himage' : (s.clockedIn (0x03 :: rest) tail).sc.image = some im := himage
    have htaken : (s.clockedIn (0x03 :: rest) tail).takeStart =
        ((s.clockedIn (0x03 :: rest) tail).startUp im).respond 0x03 .ok [StationState.listening.code] := by
      simp [State.takeStart, hstate, himage]
    rw [htaken, State.startUp_eq hstate' himage']
    rfl
  · intro answers
    refine ⟨fun hstate => ?_, fun hstate himage => ?_, fun h1 h2 => ?_, fun hstate => ?_, fun im hstate himage hrole => ?_,
      fun im hstate himage hrole => ?_⟩
    · simp only [exec, execStart]
      rw [State.command_taken h (by omega)]
      simp [State.takeStart, hstate, State.respond_eq_answered, answers]
    · simp only [exec, execStart]
      rw [State.command_taken h (by omega)]
      simp [State.takeStart, hstate, himage, State.respond_eq_answered, answers]
    · simp only [exec, execLeave]
      rw [State.command_taken h (by omega)]
      simp [State.takeLeave, StationState.talking_eq_false h1 h2, State.respond_eq_answered, answers]
    · simp only [exec, execJoin]
      rw [State.command_taken h (by omega)]
      simp [State.takeJoin, hstate, State.respond_eq_answered, answers]
    · simp only [exec, execJoin]
      rw [State.command_taken h (by omega)]
      simp [State.takeJoin, hstate, himage, hrole, State.respond_eq_answered, answers]
    · simp only [exec, execJoin]
      rw [State.command_taken h (by omega)]
      rw [State.takeJoin, if_neg (by simp [hstate]), if_pos (by simp [himage, hrole]), State.changeState_eq, ← hstate]
      rfl

/-! ## The outbox's commands (R86, R88 to R90, R104) -/

theorem Outbox.full_eq_true {o : Outbox} (h : 16 ≤ o.entries.length) : o.full = true := by simpa [Outbox.full] using h

theorem Outbox.full_eq_false {o : Outbox} (h : o.entries.length < 16) : o.full = false := by simpa [Outbox.full] using h

/-- Settles O9: each check by its guard. -/
theorem submitChecksAndCreates : Obligations.SubmitChecksAndCreates := by
  intro rest tail s h hlen refused
  simp only [exec, execSubmitCue]
  rw [State.command_taken h hlen]
  have hofBytes : CueTemplate.ofBytes (s.clockedIn (0x10 :: rest) tail).slots rest = CueTemplate.ofBytes s.slots rest := rfl
  refine ⟨fun h1 h2 => ?_, fun htalk => ⟨fun hbad => ?_, fun t ht => ⟨fun hfull => ?_, fun hroom => ?_⟩⟩⟩
  · simp [State.takeSubmit, StationState.talking_eq_false h1 h2, State.respond_eq_answered, refused]
  · simp only [State.takeSubmit, State.clockedIn_frame, (StationState.talking_iff _).2 htalk, hofBytes, hbad]
    rfl
  · simp only [State.takeSubmit, State.clockedIn_frame, (StationState.talking_iff _).2 htalk, hofBytes, ht,
      Outbox.full_eq_true hfull]
    rfl
  · simp only [State.takeSubmit, State.clockedIn_frame, (StationState.talking_iff _).2 htalk, hofBytes, ht,
      Outbox.full_eq_false hroom, Bool.not_true, Bool.false_eq_true, if_false]
    rfl

/-- A sweep that leaves an entry as it is or closes it. -/
theorem sweep_closing {f : OutEntry → OutEntry × Option Outcome} {p : OutEntry → Bool} {o : OutEntry → Outcome}
    {es : List OutEntry} (h : ∀ e ∈ es, f e = (e, if p e then some (o e) else none)) :
    sweep f es = (es.filter fun e => !p e, (es.filter p).map fun e => e.coverage (o e)) := by
  induction es with
  | nil => rfl
  | cons e es ih =>
    have ih := ih fun x hx => h x (List.mem_cons_of_mem _ hx)
    cases hp : p e <;> simp [sweep, h e (List.mem_cons_self ..), hp, ih]

theorem State.sweepOutbox_closing {f : OutEntry → OutEntry × Option Outcome} {p : OutEntry → Bool} {o : OutEntry → Outcome}
    (h : ∀ e ∈ s.ob.entries, f e = (e, if p e then some (o e) else none)) :
    s.sweepOutbox f = { s with ob := { s.ob with entries := s.ob.entries.filter fun e => !p e }
                               ev := s.ev.offers ((s.ob.entries.filter p).map fun e => e.coverage (o e)) } := by
  unfold State.sweepOutbox
  rw [sweep_closing h]
  rfl

namespace State

/-! What CANCEL_CUE does, by the standing of the CUE entry. -/

theorem cancelSerial_queued {n : Serial} {e : OutEntry} (he : s.ob.find .cue n = some e) (hq : e.state = .queued) :
    s.cancelSerial n = (.withdrawn, { s with
      ob := { s.ob with entries := s.ob.entries.filter fun x => !x.named .cue n }
      ev := s.ev.offers ((s.ob.entries.filter fun x => x.named .cue n).map fun x => x.coverage .withdrawn) }) := by
  unfold cancelSerial
  rw [if_pos (by rw [he, Option.map_some, hq]), sweepOutbox_closing (p := fun x => x.named .cue n) (o := fun _ => .withdrawn)]
  intro x _
  unfold onEntry
  split <;> rfl

section NotQueued
variable {n : Serial} (hq : ¬∃ e, s.ob.find .cue n = some e ∧ e.state = .queued)
include hq

/-- The checks of CANCEL_CUE where no QUEUED entry has the serial. -/
theorem cancelSerial_notQueued : s.cancelSerial n =
    if s.ob.cancelOpen n then (.ok, s)
    else if ((s.ob.find .cue n).any fun e => e.state == .sending && e.send.isNone && !e.withdrawPending) then
      if s.ob.full then (.outboxFull, s) else (.cancelQueued, { s with ob := s.ob.pend n })
    else if !s.sc.state.talking then (.notTalking, s)
    else if s.ob.full then (.outboxFull, s)
    else (.ok, s.cancelSent n) := by
  unfold cancelSerial
  rw [if_neg]
  intro h
  obtain ⟨e, he, hstate⟩ := Option.map_eq_some_iff.1 h
  exact hq ⟨e, he, hstate⟩

theorem cancelSerial_open (hopen : s.ob.cancelOpen n = true) : s.cancelSerial n = (.ok, s) := by
  rw [cancelSerial_notQueued hq, if_pos hopen]

theorem cancelSerial_first (hopen : s.ob.cancelOpen n = false) {e : OutEntry} {t : CueTemplate}
    (he : s.ob.find .cue n = some e) (hstate : e.state = .sending) (hsend : e.send = none) (hkind : e.kind = .cue t false) :
    s.cancelSerial n =
      if s.ob.full then (.outboxFull, s) else (.cancelQueued, { s with ob := s.ob.pend n }) := by
  rw [cancelSerial_notQueued hq, if_neg (by simp [hopen]), if_pos]
  simp [he, hstate, hsend, OutEntry.withdrawPending, hkind]

theorem cancelSerial_sent (hopen : s.ob.cancelOpen n = false)
    (he : s.ob.find .cue n = none ∨ ∃ e, s.ob.find .cue n = some e ∧ e.send ≠ none) :
    s.cancelSerial n =
      if !s.sc.state.talking then (.notTalking, s)
      else if s.ob.full then (.outboxFull, s)
      else (.ok, s.cancelSent n) := by
  rw [cancelSerial_notQueued hq, if_neg (by simp [hopen]), if_neg]
  rcases he with he | ⟨e, he, hsend⟩
  · simp [he]
  · have : e.send.isNone = false := by simpa [Option.isSome_iff_ne_none] using hsend
    simp [he, this]

end NotQueued

end State

/-- R88: CANCEL_CUE with a serial in range is answered by its standing, with the serial named. -/
theorem exec_cancelCue (h : s.Serving) (hi lo : Byte) (more : List Byte) (tail : List Bool)
    (hn : hi.toNat * 256 + lo.toNat ≤ 1023) :
    let t := s.clockedIn (0x11 :: hi :: lo :: more) tail
    let r := t.cancelSerial (BitVec.ofNat 10 (hi.toNat * 256 + lo.toNat))
    exec (.cancelCue (hi :: lo :: more) tail) s = .next (r.2.answered 0x11 r.1 (be2 (hi.toNat * 256 + lo.toNat))) := by
  intro t r
  simp only [exec, execCancelCue]
  rw [State.command_taken h (by simp)]
  have hword : word (byteAt (hi :: lo :: more) 0) (byteAt (hi :: lo :: more) 1) = hi.toNat * 256 + lo.toNat := rfl
  simp only [State.takeCancelCue, hword, if_neg (Nat.not_lt.2 hn)]
  rfl

/-- Settles O11: the standing of the named entry decides. -/
theorem cancelByStanding : Obligations.CancelByStanding := by
  intro hi lo more tail s h rest n serial answers id cancel talking
  refine ⟨fun hn => ?_, fun hn => ?_⟩
  · simp only [exec, execCancelCue]
    rw [State.command_taken h (by simp [rest])]
    have hword : word (byteAt rest 0) (byteAt rest 1) = n := rfl
    simp only [State.takeCancelCue, hword, if_pos hn]
    rfl
  · rw [exec_cancelCue h hi lo more tail hn]
    refine ⟨fun e he hq => ⟨_, ?_, rfl⟩, fun hq => ?_⟩
    · rw [State.cancelSerial_queued (s := s.clockedIn (0x11 :: rest) tail) he hq]
      rfl
    have hq' : ¬∃ e, (s.clockedIn (0x11 :: rest) tail).ob.find .cue serial = some e ∧ e.state = .queued := hq
    refine ⟨fun hopen => ?_, fun hopen => ⟨fun e t he hstate hsend hkind => ?_, fun he => ?_⟩⟩
    · rw [State.cancelSerial_open hq' hopen]
    · rw [State.cancelSerial_first hq' hopen he hstate hsend hkind]
      refine ⟨fun hfull => ?_, fun hroom => ?_⟩
      · rw [if_pos (show (s.clockedIn (0x11 :: rest) tail).ob.full = true from Outbox.full_eq_true hfull)]
      · rw [if_neg (show ¬(s.clockedIn (0x11 :: rest) tail).ob.full = true by simpa using Outbox.full_eq_false hroom)]
        rfl
    · rw [State.cancelSerial_sent hq' hopen he]
      have htalking : s.sc.state.talking = true ↔ talking := StationState.talking_iff _
      refine ⟨fun htalk => ?_, fun htalk hfull => ?_, fun htalk hroom hheld => ?_, fun htalk hroom hheld => ?_⟩
      · rw [if_pos (by simpa using Bool.eq_false_iff.2 (mt htalking.1 htalk))]
      all_goals
        rw [if_neg (by simpa [htalking] using htalk)]
      · rw [if_pos (show (s.clockedIn (0x11 :: rest) tail).ob.full = true from Outbox.full_eq_true hfull)]
      all_goals
        rw [if_neg (show ¬(s.clockedIn (0x11 :: rest) tail).ob.full = true by simpa using Outbox.full_eq_false hroom)]
        have hheld' : (s.clockedIn (0x11 :: rest) tail).cq.holds
          { originator := (s.clockedIn (0x11 :: rest) tail).self, serial := serial } = _ := hheld
        simp only [State.cancelSent, hheld']
        rfl

/-! ## Channels and triggers (R76, R175, R183) -/

/-- Settles O13: each check by its guard, and the one channel that the action reaches. -/
theorem driveChannelChecksAndApplies : Obligations.DriveChannelChecksAndApplies := by
  intro rest tail s h himage hlen refused action
  have hrun : ∀ a : Action, a.running = true ↔ a.code = 2 ∨ a.code = 3 := fun a => by
    cases a <;> simp [Action.running, Action.code]
  simp only [exec, execDriveChannel]
  rw [State.gated_taken h himage hlen]
  unfold State.takeDrive
  refine ⟨fun hc => ?_, fun hc ha => ?_, fun a hc ha hcode hcycles => ?_, fun c a hc ha hcycles => ?_⟩
  · rw [dif_neg (by omega)]
    rfl
  · have ha : driveAction rest = none := ha
    rw [dif_pos (by omega)]
    simp only [ha]
    rfl
  · have ha : driveAction rest = some a := ha
    rw [dif_pos (by omega)]
    simp only [ha, State.clockedIn_frame, (hrun a).2 hcode, hcycles]
    rfl
  · have ha : driveAction rest = some a := ha
    have hchannel : (⟨(byteAt rest 0).toNat, hc ▸ c.isLt⟩ : Channel) = c := Fin.ext hc
    have hgo : (a.running && !s.sc.state.cyclesRun) = false := by
      cases hr : a.running with
      | false => rfl
      | true => simp [hcycles ((hrun a).1 hr)]
    refine ⟨s.cg.drive c a, fun d => ?_, rfl, rfl, rfl, rfl, ?_⟩
    · simp [ChannelGenerators.drive]
    · rw [dif_pos (hc ▸ c.isLt)]
      simp only [ha, State.clockedIn_frame, hgo, hchannel]
      rfl

/-- Settles O18: each check by its guard. -/
theorem triggerBindingCommands : Obligations.TriggerBindingCommands := by
  intro rest tail s h himage answers rebound edge
  have hinput : ∀ i, TrigInput.ofCode (inputCode i).toNat = some i := fun i => by cases i <;> rfl
  have hnoInput : 1 < (byteAt rest 0).toNat → TrigInput.ofCode (byteAt rest 0).toNat = none := fun hi => by
    unfold TrigInput.ofCode
    split <;> first | rfl | omega
  have hedge : (byteAt rest 1).toNat ≤ 2 → EdgeCode.ofCode (byteAt rest 1).toNat = some edge := by
    simp only [edge]
    generalize byteAt rest 1 = b
    intro hb
    have hcases : b.toNat = 0 ∨ b.toNat = 1 ∨ b.toNat = 2 := by omega
    obtain rfl | rfl | rfl : b = 0 ∨ b = 1 ∨ b = 2 :=
      hcases.imp BitVec.eq_of_toNat_eq (Or.imp BitVec.eq_of_toNat_eq BitVec.eq_of_toNat_eq)
    all_goals rfl
  have hnoEdge : 2 < (byteAt rest 1).toNat → EdgeCode.ofCode (byteAt rest 1).toNat = none := fun he => by
    unfold EdgeCode.ofCode
    split <;> first | rfl | omega
  refine ⟨fun hlen hbad => ?_, fun hlen hi he ht => ?_, fun i t hlen hi he ht => ?_, fun hlen hi => ?_, fun i hlen hi => ?_⟩
  all_goals
    simp only [exec, execBindTrigger, execUnbindTrigger]
    rw [State.gated_taken h himage hlen]
  · unfold State.takeBind
    rcases hbad with hbad | hbad
    · simp only [hnoInput hbad]
      rfl
    · simp only [hnoEdge hbad]
      cases TrigInput.ofCode (byteAt rest 0).toNat <;> rfl
  · have ht : CueTemplate.ofBytes (s.clockedIn (0x31 :: rest) tail).slots (rest.drop 2) = none := ht
    obtain ⟨i, hi⟩ : ∃ i, TrigInput.ofCode (byteAt rest 0).toNat = some i := by
      rcases Nat.le_one_iff_eq_zero_or_eq_one.1 hi with hi | hi <;> rw [hi]
      · exact ⟨.trig0, rfl⟩
      · exact ⟨.trig1, rfl⟩
    simp only [State.takeBind, hi, hedge he, ht]
    rfl
  · have ht : CueTemplate.ofBytes (s.clockedIn (0x31 :: rest) tail).slots (rest.drop 2) = some t := ht
    simp only [State.takeBind, hi, hinput, hedge he, ht]
    cases i <;> rfl
  · simp only [State.takeUnbind, hnoInput hi]
    rfl
  · simp only [State.takeUnbind, hi, hinput]
    cases i <;> rfl

/-! ## LEAVE (R149) -/

/-- R104: an entry that LEAVE leaves open. -/
def OutEntry.outlivesLeave (o : Outbox) (e : OutEntry) : Bool :=
  e.state != .queued || (!e.isCue && o.entries.any fun c =>
    c.isCue && c.serial == e.serial && c.state == .sending && c.withdrawPending)

theorem OutEntry.atLeave_eq (o : Outbox) (e : OutEntry) :
    e.atLeave o = (e, if !e.outlivesLeave o then some .withdrawn else none) := by
  have hnamed : ∀ c : OutEntry, c.named .cue e.serial = (c.isCue && c.serial == e.serial) := fun c => by
    unfold OutEntry.named OutEntry.cueKind
    cases c.isCue <;> rfl
  simp only [OutEntry.atLeave, OutEntry.outlivesLeave, hnamed, Bool.not_or, bne, Bool.not_not]

/-- R149, R157: what LEAVE makes of the state before SC's check of the counts. -/
theorem State.leaveLine_eq (s : State) :
    s.leaveLine = ({ s with
      sc := { s.sc with state := .leaving, talkIntent := false }
      ob := { s.ob with entries := s.ob.entries.filter (OutEntry.outlivesLeave s.ob) }
      ev := s.ev.offers ([.stateChanged s.sc.state .leaving .leave s.ct.cycle s.heldCount] ++
        ((s.ob.entries.filter fun e => !e.outlivesLeave s.ob).map fun e => e.coverage .withdrawn)) } : State).checkCounts := by
  unfold State.leaveLine
  extract_lets sc t
  have hclosing : ∀ e ∈ t.ob.entries, e.atLeave t.ob = (e, if !e.outlivesLeave s.ob then some .withdrawn else none) :=
    fun e _ => OutEntry.atLeave_eq _ e
  rw [State.sweepOutbox_closing (o := fun _ => .withdrawn) hclosing]
  simp only [Bool.not_not]
  rw [EventQueue.offers_append]
  rfl

/-- R150: the count check in LEAVING. -/
theorem State.checkCounts_leaving (h : s.sc.state = .leaving) :
    s.checkCounts = if s.heldCount = 0 ∧ s.claimedCount = 0 then s.changeState .quiet .left else s := by
  simp only [State.checkCounts, h]

/-- R150: LEAVE with no own entry leads to QUIET at once. -/
theorem State.leaveLine_of_none (h : s.heldCount = 0 ∧ s.claimedCount = 0) :
    s.leaveLine = { s with
      sc := { s.sc with state := .quiet, talkIntent := false }
      ob := { s.ob with entries := s.ob.entries.filter (OutEntry.outlivesLeave s.ob) }
      fb := { s.fb with staging := [] }
      ev := s.ev.offers ([.stateChanged s.sc.state .leaving .leave s.ct.cycle s.heldCount] ++
        ((s.ob.entries.filter fun e => !e.outlivesLeave s.ob).map fun e => e.coverage .withdrawn) ++
        [.stateChanged .leaving .quiet .left s.ct.cycle 0]) } := by
  have hheld : ∀ t : State, t.st = s.st → t.sc.image = s.sc.image → t.heldCount = 0 := fun t hst himage => by
    rw [← h.1, State.heldCount, State.heldCount, State.self, State.self, hst, himage]
  rw [State.leaveLine_eq, State.checkCounts_leaving rfl]
  refine (if_pos h).trans ?_
  rw [State.changeState_eq, h.1, hheld]
  · simp only [EventQueue.offers_append]
    rfl
  all_goals rfl

/-- R149: LEAVE with an own entry leads to LEAVING. -/
theorem State.leaveLine_of_some (h : ¬(s.heldCount = 0 ∧ s.claimedCount = 0)) :
    s.leaveLine = { s with
      sc := { s.sc with state := .leaving, talkIntent := false }
      ob := { s.ob with entries := s.ob.entries.filter (OutEntry.outlivesLeave s.ob) }
      ev := s.ev.offers ([.stateChanged s.sc.state .leaving .leave s.ct.cycle s.heldCount] ++
        ((s.ob.entries.filter fun e => !e.outlivesLeave s.ob).map fun e => e.coverage .withdrawn)) } := by
  rw [State.leaveLine_eq, State.checkCounts_leaving rfl]
  exact if_neg h

/-- Settles O8: the sweep closes what LEAVE does not leave open, and the count check ends it. -/
theorem leaveWithdrawsQueued : Obligations.LeaveWithdrawsQueued := by
  intro rest tail s h htalk done after kept
  simp only [exec, execLeave]
  rw [State.command_taken h (by omega)]
  have htaken : (s.clockedIn (0x04 :: rest) tail).takeLeave = (s.clockedIn (0x04 :: rest) tail).leaveLine.respond 0x04 .ok
      [(s.clockedIn (0x04 :: rest) tail).leaveLine.sc.state.code] := by
    simp [State.takeLeave, (StationState.talking_iff _).2 htalk]
  rw [htaken]
  by_cases hdone : s.heldCount = 0 ∧ s.claimedCount = 0
  · have hafter : done = true := decide_eq_true hdone
    rw [State.leaveLine_of_none (s := s.clockedIn (0x04 :: rest) tail) hdone]
    simp only [after, hafter, if_true]
    rfl
  · have hafter : done = false := decide_eq_false hdone
    rw [State.leaveLine_of_some (s := s.clockedIn (0x04 :: rest) tail) hdone]
    simp only [after, hafter, Bool.false_eq_true, if_false, List.append_nil]
    rfl

end Sys2Proof.Machine
end

section
/-! PROOFS. The channels' actions and the output stage, the trigger inputs, and the cycle timer's openings: how one starts, what its number field and its shape byte settle, what a fault, a halt and a resynchronization clear, and the line faults. -/

namespace Sys2Proof.Machine

variable {s : State}

/-! ## The channels and the outputs (sections 4.1 to 4.6) -/

/-- Settles O14: each action and each policy by its equation. -/
theorem actionsAndFaultPolicy : Obligations.ActionsAndFaultPolicy := by
  refine ⟨⟨fun _ _ => ⟨rfl, rfl⟩, fun _ _ _ => ⟨rfl, rfl⟩, fun _ _ _ _ _ => ⟨rfl, rfl⟩, fun _ => ⟨rfl, rfl⟩,
    fun _ _ _ _ _ => rfl⟩, fun c st h => by simp [ChanState.underPolicy, h], fun c st h => ?_,
    fun g c => ⟨PerChannel.get_zipWith .., rfl, rfl, rfl, rfl⟩⟩
  cases c with
  | idle | hold | ramp => simp [ChanState.underPolicy, h, ChanState.level]
  | pulse v a b m phase left => cases phase <;> simp [ChanState.underPolicy, h, ChanState.level]

/-- Settles O17: the latches are those of every channel, and the pin compares with the active part. -/
theorem pwmPeriodTakesLevels : Obligations.PwmPeriodTakesLevels := by
  refine ⟨fun s h => by simp [exec, execPwmPeriodStart, h],
    fun s h => ⟨s.cg.periodStart.outputs, ?_, fun c => PerChannel.get_zipWith ..⟩,
    fun o rate t _ => ?_, rfl, rfl, rfl⟩
  · simp only [exec, execPwmPeriodStart, h]
    rfl
  · cases hp : o.polarity <;> simp [OutputLatch.pinHigh, hp]

/-! ## Trigger edges (R182, R184, R185) -/

theorem edgeFrom_eq (l : Level) : edgeFrom l = if l = .low then .rising else .falling := by cases l <;> rfl

theorem opposite_eq (l : Level) : opposite l = if l = .low then .high else .low := by cases l <;> rfl

/-- R182: the edges that a binding names. -/
theorem EdgeCode.names_iff (c : EdgeCode) (e : Edge) :
    c.names e = true ↔ c = .both ∨ (c = .rising ∧ e = .rising) ∨ (c = .falling ∧ e = .falling) := by
  cases c <;> cases e <;> simp [EdgeCode.names]

/-- R184: the input's last entry still waits or is on its way. -/
theorem State.triggerPending_iff (s : State) (i : TrigInput) :
    s.triggerPending i = true ↔ ∃ n, (s.trigger i).lastSerial = some n ∧ ∃ e ∈ s.ob.entries,
      e.isCue = true ∧ e.serial = n ∧ e.source = .trigger i ∧ e.state ≠ .sent := by
  have hstate : ∀ e : OutEntry, (e.state = .queued ∨ e.state = .sending) ↔ e.state ≠ .sent := fun e => by
    cases e.state <;> simp
  have hkind : ∀ e : OutEntry, e.cueKind = .cue ↔ e.isCue = true := fun e => by
    unfold OutEntry.cueKind
    cases e.isCue <;> simp
  unfold State.triggerPending
  split
  · next hn => simp [hn]
  · next n hn =>
    simp only [hn, Option.some.injEq, exists_eq_left', List.any_eq_true, Bool.and_eq_true, Bool.or_eq_true, beq_iff_eq,
      OutEntry.named_iff, hkind, hstate, and_assoc]

/-- Settles O19: the edge, the binding and the four checks in their order. -/
theorem triggerEdgesPresented : Obligations.TriggerEdgesPresented := by
  intro i s hheld before edge level put still dropped talking pending
  have hexec : exec (.triggerEdge i) s = .next (s.edge i) := by simp [exec, execTriggerEdge, hheld]
  have hedge : edgeFrom (s.trigger i).level = edge := edgeFrom_eq _
  have hlevel : opposite (s.trigger i).level = level := opposite_eq _
  have hput : .next (s.setTrigger i still) = put still s.ob s.ev := by cases i <;> rfl
  have hbound : s.edge i = match before.binding with
      | none => s.setTrigger i still
      | some b => if b.edge.names edge then (s.setTrigger i still).present i edge b.template else s.setTrigger i still := by
    simp only [State.edge, hlevel, hedge]
    rfl
  rw [hexec, hbound]
  refine ⟨fun hb => by rw [hb]; exact hput, ?_⟩
  intro b hb named
  have hnamed : b.edge.names edge = true ↔ named := EdgeCode.names_iff _ _
  simp only [hb]
  have htalking : (s.setTrigger i still).sc.state.talking = true ↔ talking := by
    rw [(State.setTrigger_frame ..).1]
    exact StationState.talking_iff _
  have hpending : (s.setTrigger i still).triggerPending i = true ↔ pending := by
    rw [State.triggerPending_iff]
    cases i <;> rfl
  have hslots : (s.setTrigger i still).slots = s.slots := by cases i <;> rfl
  have hob : (s.setTrigger i still).ob = s.ob := by simp
  have hdropped : ∀ reason, (s.setTrigger i still).dropReason i b.template = some reason →
      .next ((s.setTrigger i still).present i edge b.template) = dropped reason := fun reason hr => by
    simp only [State.present, hr]
    cases i <;> rfl
  refine ⟨fun hn => ?_, fun hn ht => ?_, fun hn ht hp => ?_, fun hn ht hp hs => ?_, fun hn ht hp hs hf => ?_,
    fun hn ht hp hs hf => ?_⟩
  · rw [if_neg (mt hnamed.1 hn)]
    exact hput
  all_goals rw [if_pos (hnamed.2 hn)]
  · exact hdropped _ (by simp only [State.dropReason, Bool.eq_false_iff.2 (mt htalking.1 ht), Bool.not_false, if_true])
  all_goals have htalk := htalking.2 ht
  · exact hdropped _ (by
      simp only [State.dropReason, htalk, hpending.2 hp, Bool.not_true, Bool.false_eq_true, if_false, if_true])
  all_goals have hpend := Bool.eq_false_iff.2 (mt hpending.1 hp)
  · exact hdropped _ (by
      simp only [State.dropReason, htalk, hpend, hslots, hs, Bool.not_true, Bool.false_eq_true, if_false, if_true])
  all_goals have hslot := Nat.not_le.2 hs
  · exact hdropped _ (by
      simp only [State.dropReason, htalk, hpend, hslots, hslot, hob, Outbox.full_eq_true hf, Bool.not_true,
        Bool.false_eq_true, if_false, if_true])
  · have hnone : (s.setTrigger i still).dropReason i b.template = none := by
      simp only [State.dropReason, htalk, hpend, hslots, hslot, hob, Outbox.full_eq_false hf, Bool.not_true,
        Bool.false_eq_true, if_false]
    simp only [State.present, hnone]
    cases i <;> rfl

/-! ## How an opening starts (R4 to R6, R16, R129) -/

/-- Settles O20: each event by its guard, the dominant run kept. -/
theorem openingsStart : Obligations.OpeningsStart := by
  have hmax : ∀ position run : Nat, max position run = if run < position then position else run := fun position run => by
    split <;> omega
  unfold Obligations.OpeningsStart
  intro fresh begun
  have hbegun : ∀ (t : State) (proposal : Cycle) (position : Nat),
      { t with ct := t.ct.participate proposal position, lc := t.lc.pulse position } = begun t proposal position :=
    fun t proposal position => by
      simp only [begun, LineController.pulse, hmax]
      rfl
  refine ⟨fun s hs hphase => ?_, fun s hrun hphase hslot hjudged => ?_, fun s hl hended hslot => ?_,
    fun s o hphase hrole ho hstage => ?_, fun s o hphase hrole ho hstage => ?_⟩
  · have hself : s.ct.selfProposal = if s.ct.history = .unsettled then 0 else s.ct.cycle + 1 := by
      unfold CycleTimer.selfProposal
      cases s.ct.history <;> rfl
    simp only [exec, execListenWindowExpiry, hs, hphase, and_self, if_true, hself, hbegun]
  · have hopen : s.windowOpen = true := by simp [State.windowOpen, hrun, hphase, hslot, hjudged]
    simp only [exec, execOpeningBegins, hopen, if_true, State.beginOpening, ← hbegun]
  · have hedge : (s.listens && s.slot.ended && s.ct.slotIndex == some (s.slots - 1)) = true := by simp [hl, hended, hslot]
    simp only [exec, execDeferredOpeningEdge, hedge, if_true, State.beginOpening, ← hbegun]
    rfl
  · refine ⟨min 40 (max 12 (s.lc.dominantRun + (12 - s.ct.position.getD 0))), ?_, fun hle => by omega, fun p hp hle => ?_⟩
    · simp only [exec, execOpeningPulseRelease, ho, hphase, hrole, hstage, and_self, if_true, LineController.pulseEnd]
    · rw [hp]
      simp only [Option.getD_some]
      omega
  · simp only [exec, execNumberFieldArbitrationLoss, ho, hphase, hrole, hstage, and_self, if_true]

/-! ## The number field (R6, R7, R12, R14, R16) -/

/-- R11: a number at half the circle or beyond is not later. -/
theorem later_eq_false_of_half {a b : Cycle} (h : 2147483648 ≤ (a - b).toNat) : later a b = false :=
  decide_eq_false (by omega)

/-- Settles O21: what the field settles by role, damage and the distance of the winner's number. -/
theorem numberFieldSettles : Obligations.NumberFieldSettles := by
  intro read mismatch s o hphase ho hstage part winning bad
  let damaged := o.numberDamaged || ((mismatch || s.lc.heldMismatch) && s.ct.role == .participant)
  have hbad : damaged = true ↔ bad := by simp [damaged, bad, part]
  let settled := settleNumber s.ct.role (s.sc.state == .listening) damaged s.ct.cycle (s.ct.proposal.getD 0) winning
  refine ⟨damaged, settled.1, settled.2.1, settled.2.2, ?_, hbad, fun proposal hp hpart => ?_, fun hpart => ?_⟩
  · simp only [exec, execNumberFieldEnd, ho, hphase, hstage, and_self, if_true, State.endNumberField,
      LineController.fieldEnd_eq, Bool.and_eq_true, beq_iff_eq, Bool.not_eq_true']
    rfl
  · have hlater : later winning proposal = true ↔
        1 ≤ (winning - proposal).toNat ∧ (winning - proposal).toNat ≤ 2147483647 := decide_eq_true_iff
    have hrole : s.ct.role = .participant := hpart
    have hsettled : settled = if damaged then (proposal, 0, false)
        else if winning = proposal then (proposal, 0, false)
        else if later winning proposal then (winning, winning - proposal, false)
        else (winning, 0, !(s.sc.state == .listening)) := by
      simp only [settled, settleNumber, hrole, hp, Option.getD_some]
    rw [hsettled]
    refine ⟨fun hwon => ?_, fun hgood hlo hhi => ?_, fun hgood hfar => ?_⟩
    · rcases hwon with hb | heq
      · simp [hbad.2 hb]
      · simp [heq]
    all_goals
      have hne : winning ≠ proposal := fun heq => by simp [heq] at *
      rw [if_neg (mt hbad.1 hgood), if_neg hne]
    · simp [hlater.2 ⟨hlo, hhi⟩]
    · simp [later_eq_false_of_half hfar]
  · have hsettled : settled = if damaged then (s.ct.cycle + 1, 0, false) else (winning, 0, false) := by
      have hrole : s.ct.role ≠ .participant := hpart
      simp only [settled, settleNumber]
      cases hr : s.ct.role with
      | participant => exact absurd hr hrole
      | idle | observer => rfl
    rw [hsettled]
    by_cases hb : bad
    · simp [hbad.2 hb, hb]
    · simp [Bool.eq_false_iff.2 (mt hbad.1 hb), hb]

/-! ## Faults, halts and resynchronizations (R103, R34, R61, R152, R153, R155) -/

/-- R34: no slot is held once the table is cleared. -/
theorem State.dropWork_heldCount (s : State) (after : StationState) : (s.dropWork after).heldCount = 0 := by
  have hentries : (s.dropWork after).st.entries = List.replicate s.st.entries.length { view := .free, failures := 0 } :=
    List.map_const' ..
  unfold State.heldCount SlotTable.heldSlots
  rw [hentries, slotsWhere_freeEntries rfl]
  rfl

/-- R103: every entry closes ABANDONED. -/
theorem sweep_abandon (es : List OutEntry) : (sweep OutEntry.abandon es).2 = es.map fun e => e.coverage .abandoned := by
  have h := sweep_closing (f := OutEntry.abandon) (p := fun _ => true) (o := fun _ => .abandoned) (es := es) fun _ _ => rfl
  simp [h]

/-- Settles O23: the three are `dropWork` with its records, and two of them stand off the line. -/
theorem faultHaltAndResyncClearWork : Obligations.FaultHaltAndResyncClearWork := by
  intro s cleared abandoned empty free apart stopped records
  have hrecords : ∀ after reason own cause, s.dropRecords after reason own cause = records after reason own cause :=
    fun after reason own cause => by simp only [State.dropRecords, State.dropWork_heldCount, sweep_abandon, records]
  refine ⟨fun reason => ?_, fun reason => ?_, fun reason own => ?_⟩
  · rw [State.enterLineFault, hrecords]
    rfl
  · rw [State.enterHalted, hrecords]
    rfl
  · rw [State.resync, hrecords]
    rfl

/-- At the end of the opening after a resynchronization there is nothing to close, to purge or to learn. -/
theorem State.finishOpening_of_cleared {o : Opening} (hstate : s.sc.state = .learning) (hentries : s.ob.entries = [])
    (hlc : s.lc.release = s.lc) (hslot : s.slot = .blank) (hback : o.backward = true) (hslip : o.slip = 0) :
    let t : State := { s with
      ct := s.ct.settle o.number
      lc := { s.lc with dominantRun := if o.shapeDamaged then s.lc.dominantRun else 0 } }
    s.finishOpening o = if o.numberDamaged || o.shapeDamaged then t.countDamagedOpening else t := by
  intro t
  have hdone : sweep (OutEntry.atDeadline o.number) s.ob.entries = ([], []) := by rw [hentries]; rfl
  have hlearn : ∀ u : State, u.sc.state = .learning → u.learnAt s.ct.role o.backward = u := fun u hu => by
    simp [State.learnAt, hu, hback]
  have hobEq : ({ s.ob with entries := [] } : Outbox) = s.ob := by rw [← hentries]
  unfold State.finishOpening
  simp only [hdone, hobEq, State.slipRecords, hslip, if_true, hlc, LineController.fieldEnd_eq, State.offersUnordered,
    List.isEmpty_nil, Bool.true_or, List.append_nil, State.offers_nil, ← hslot]
  rw [hlearn]
  split <;> exact hstate

/-- Settles O24: the shape byte decides, and after a resynchronization no entry and no slip is left to report. -/
theorem openingEndHaltsOrResyncs : Obligations.OpeningEndHaltsOrResyncs := by
  intro shape s o im hphase ho hstage himage counted
  have hexec : exec (.openingEnds shape) s = .next (s.endShape o shape) := by
    simp only [exec, execOpeningEnds, ho, hphase, hstage, and_self, if_true]
  have hmatches : ((s.sc.image.map fun im => im.shapeMatches shape).getD false) = im.shapeMatches shape := by
    rw [himage]
    rfl
  rw [hexec, State.endShape, hmatches]
  refine ⟨fun hwhole hmismatch => ?_, fun hmatch hback hslip => ?_⟩
  · simp only [hwhole, hmismatch, Bool.not_false, Bool.and_self, if_true]
    rfl
  · have hgo : (!o.shapeDamaged && !im.shapeMatches shape) = false := by
      rcases hmatch with h | h <;> simp [h]
    simp only [hgo, Bool.false_eq_true, if_false, hback, if_true]
    rw [State.finishOpening_of_cleared rfl rfl rfl rfl hback hslip]
    rfl

/-! ## Pulses and damage (R12 to R15, R128) -/

/-- R131: off the line no cycle runs and no station listens. -/
theorem StationState.onLine_of_cyclesRun {a : StationState} (h : a.cyclesRun = true) : a.onLine = true ∧ a ≠ .listening := by
  cases a with
  | learning | quiet | claiming | active | leaving => exact ⟨rfl, nofun⟩
  | config | listening | lineFault | halted => cases h

/-- Settles O25: each pulse by the station state and the phase, each damage by the stage. -/
theorem pulsesAndOpeningDamage : Obligations.PulsesAndOpeningDamage := by
  refine ⟨fun run inWindow s hlo hhi => ?_, fun s o hphase ho hstage => ⟨fun hplace => ?_, fun hl hrole => ?_⟩⟩
  · intro observed
    have hrun : ¬(run < 11 ∨ 39 < run) := by omega
    simp only [exec, execOpeningPulse, State.recognizePulse, hrun, if_false]
    refine ⟨fun hs hphase => ?_, ?_, fun hs => ?_, fun o hs hphase ho hstage => ?_, fun hs hphase => ?_, fun hs => ?_⟩
    · rw [if_pos ⟨hs, hphase⟩]
      rfl
    · intro hs hplace
      have hstray : s.strayable = true := by
        rcases hplace with hphase | ⟨hphase, o, ho, hstage⟩
        · simp [State.strayable, hs, hphase]
        · simp [State.strayable, hs, hphase, ho, hstage]
      rw [if_neg (fun h => (StationState.onLine_of_cyclesRun hs).2 h.1), if_pos ⟨hstray, trivial⟩]
      rfl
    · obtain ⟨hline, hl⟩ := StationState.onLine_of_cyclesRun hs
      rw [if_neg (fun h => hl h.1), if_neg (by simp), if_pos hline]
      rfl
    · obtain ⟨hline, hl⟩ := StationState.onLine_of_cyclesRun hs
      rw [if_neg (fun h => hl h.1), if_neg (by simp [State.strayable, hphase, ho, hstage]), if_pos hline]
      rfl
    · have hstray : s.strayable = false := by simp [State.strayable, hs, StationState.cyclesRun]
      rw [if_neg (by simp [hphase]), if_neg (by simp [hstray]), if_pos (by rw [hs]; rfl)]
      rfl
    · have hcycles : s.sc.state.cyclesRun = false := Bool.eq_false_iff.2 fun h => by
        simp [(StationState.onLine_of_cyclesRun h).1] at hs
      rw [if_neg (fun h => by simp [h.1, StationState.onLine] at hs), if_neg (by simp [State.strayable, hcycles]),
        if_neg (by simp [hs])]
  · intro damaged
    have hnot : ¬(s.sc.state = .listening ∧ s.ct.role = .observer) := not_and_or.2 hplace
    have hdamage : s.damageOpening = { s with ct := { s.ct with opening := some damaged } } := by
      simp only [State.damageOpening, hphase, if_true, ho, damaged]
      cases hst : o.stage with
      | pulse => exact absurd hst hstage
      | number | shape => simp [hnot]
    simp only [exec, execOpeningFramingError, execByteGap, hphase, if_true, hdamage, and_self]
  · intro again
    have hdamage : s.damageOpening = again := by
      simp only [State.damageOpening, hphase, if_true, ho]
      cases hst : o.stage with
      | pulse => exact absurd hst hstage
      | number | shape => simp only [hl, hrole, and_self, if_true]; rfl
    simp only [exec, execOpeningFramingError, execByteGap, hphase, if_true, hdamage, and_self]

/-! ## Line faults (R130, R131, R153, R154) -/

/-- Settles O45: each row by its guard. -/
theorem lineFaultCommands : Obligations.LineFaultCommands := by
  refine ⟨fun s o hline hphase hrole ho hstage => ?_, fun s hline => ?_, fun s hs => ⟨?_, ?_, ?_⟩⟩
  · simp only [exec, execNoEcho, ho, hline, hphase, hrole, hstage, and_self, if_true]
    rfl
  · simp only [exec, execStuckLine, hline, if_true]
  · simp only [exec, execStuckLine, hs, if_true]
    rfl
  · simp only [exec, execFallingEdgeInLineFault, hs, if_true]
  · have hlisten : s.listenTime = 3 * (80 + s.slots * (10 * (s.payload + 5) + 20)) := rfl
    simp only [exec, execLineRestored, if_pos hs, State.changeState_eq, hlisten]
    rw [← hs]
    rfl

end Sys2Proof.Machine
end

section
/-! PROOFS. The end of an opening that neither halts the station nor resynchronizes it. -/

namespace Sys2Proof.Machine

variable {s : State}

/-! ## Opening ends (R8 to R10, R12, R17, R60, R101, R146, R147) -/

/-- R101: the entries whose deadline is not later than the new number close, by their answers. -/
theorem sweep_atDeadline (now : Cycle) (es : List OutEntry) :
    let closes := fun e : OutEntry => e.send.any fun d => !later d.deadline now
    sweep (OutEntry.atDeadline now) es = (es.filter fun e => !closes e,
      (es.filter closes).map fun e => e.coverage (if e.complete then .complete else .partialAnswers)) := by
  refine sweep_closing (o := fun e => if e.complete then .complete else .partialAnswers) fun e _ => ?_
  unfold OutEntry.atDeadline
  cases e.send with
  | none => rfl
  | some d => cases hl : later d.deadline now <;> simp [hl]

/-- Where an opening that ends leads the station, by what it was and by the part it took. -/
def State.learnMove (s : State) (role : OpeningRole) : Option (StationState × Reason) :=
  match s.sc.state with
  | .listening => some (.learning, if role = .participant then .selfOpened else .adopted)
  | .learning => if role = .participant then some (if s.sc.talkIntent then .claiming else .quiet, .learned) else none
  | _ => none

theorem State.learnAt_eq (s : State) (role : OpeningRole) :
    s.learnAt role false = match s.learnMove role with
      | none => s
      | some m => s.changeState m.1 m.2 := by
  unfold State.learnAt State.learnMove
  cases s.sc.state with
  | listening => cases role <;> rfl
  | learning => by_cases hr : role = .participant <;> simp [hr]
  | config | quiet | claiming | active | leaving | lineFault | halted => rfl

/-- Settles O22: the deadlines' records beside the slip's, and then the station's own move. -/
theorem openingEndSettles : Obligations.OpeningEndSettles := by
  intro shape s o im hphase ho hstage himage hmatch hback closes move after
  have hmatches : ((s.sc.image.map fun im => im.shapeMatches shape).getD false) = im.shapeMatches shape := by
    rw [himage]
    rfl
  have hgo : (!o.shapeDamaged && !im.shapeMatches shape) = false := by
    rcases hmatch with h | h <;> simp [h]
  have hexec : exec (.openingEnds shape) s = .next (s.finishOpening o) := by
    simp only [exec, execOpeningEnds, ho, hphase, hstage, and_self, if_true, State.endShape, hmatches, hgo, hback,
      Bool.false_eq_true, if_false]
  rw [hexec]
  unfold State.finishOpening
  rw [sweep_atDeadline, hback]
  obtain ⟨records, choices, hmerge, hoffers⟩ := State.offersUnordered_spec (s := { s with
      ct := s.ct.settle o.number
      lc := s.lc.release.fieldEnd o.shapeDamaged
      slot := .blank
      cq := if o.slip = 0 then s.cq else s.cq.purge o.number
      ob := { s.ob with entries := s.ob.entries.filter fun e => !closes e } }) (s.slipRecords o)
    ((s.ob.entries.filter closes).map fun e => e.coverage (if e.complete then .complete else .partialAnswers))
  refine ⟨records, choices, hmerge, ?_⟩
  simp only [closes] at hoffers ⊢
  rw [hoffers]
  have hcount : ∀ (t : State) (b : Bool), (if b then t.countDamagedOpening else t) = { t with
      counters := if b then { t.counters with damagedOpenings := min 65535 (t.counters.damagedOpenings + 1) }
        else t.counters } := fun t b => by cases b <;> rfl
  have hmove : ∀ t : State, t.sc = s.sc → t.learnMove s.ct.role = move := fun t ht =>
    (by rw [State.learnMove, State.learnMove, ht] : t.learnMove s.ct.role = s.learnMove s.ct.role).trans rfl
  rw [hcount, State.learnAt_eq, LineController.fieldEnd_eq]
  generalize hlm : State.learnMove _ _ = lm
  have hlm' : lm = move := hlm.symm.trans (hmove _ rfl)
  rw [hlm']
  cases hm : move with
  | none => simp [after, hm, CycleTimer.settle, CueQueue.purge]
  | some m =>
    simp [after, hm, CycleTimer.settle, CueQueue.purge, State.changeState_eq, EventQueue.offers_append]
    rfl

end Sys2Proof.Machine
end

section
/-! PROOFS. The judgement of a slot: claims, confirmations, silences, displacements, releases, and the departures they bring. -/

namespace Sys2Proof.Machine

variable {s : State} {slot : Nat} {z : Station}

/-! ## Entries of the slot table (R19) -/

theorem SlotTable.put_eq {t : SlotTable} {k : Nat} (h : 1 ≤ k) (e : SlotEntry) :
    t.put k e = { t with entries := t.entries.set (k - 1) e } := by
  rw [SlotTable.put, if_neg (by omega)]

theorem SlotTable.entry_of_getElem? {t : SlotTable} {k : Nat} {e : SlotEntry} (h : 1 ≤ k) (he : t.entries[k - 1]? = some e) :
    t.entry k = some e := by
  rw [SlotTable.entry, if_neg (by omega), he]

theorem SlotTable.view_of_entry {t : SlotTable} {k : Nat} {e : SlotEntry} (h : t.entry k = some e) : t.view k = e.view := by
  rw [SlotTable.view, h]
  rfl

theorem SlotTable.failures_of_entry {t : SlotTable} {k : Nat} {e : SlotEntry} (h : t.entry k = some e) :
    t.failures k = e.failures := by
  rw [SlotTable.failures, h]
  rfl

theorem SlotTable.view_zero (t : SlotTable) : t.view 0 = .free := rfl

/-! ## SC's count check (R148, R150) -/

/-- Settles O29: the three states that the check can move, each on both sides of its bound. -/
theorem countCheckMovesStation : Obligations.CountCheckMovesStation := by
  intro s moved
  have hmoved : ∀ after reason, s.changeState after reason = moved after reason (if after.stages then s.fb.staging else []) :=
    fun after reason => s.changeState_eq after reason
  unfold State.checkCounts
  refine ⟨fun hs hn => ?_, fun hs hn => ?_, fun hs hn => ?_, fun hs hn => ?_, fun hs hh hc => ?_, fun hs hn => ?_,
    fun hs => ?_⟩
  · simp only [hs, if_pos hn, hmoved]
    rfl
  · simp only [hs, if_neg (Nat.not_le.2 hn)]
  · simp only [hs, if_pos hn, hmoved]
    rfl
  · simp only [hs, if_neg (Nat.not_lt.2 hn)]
  · simp only [hs, if_pos (And.intro hh hc), hmoved]
    rfl
  · simp only [hs, if_neg hn]
  · cases h : s.sc.state with
    | claiming | active | leaving => rw [h] at hs; cases hs
    | config | listening | learning | quiet | lineFault | halted => rfl

/-! ## Departures (R39, R99, R102) -/

theorem State.peerGone_stays (h : s.st.heldSlots z ≠ [] ∨ s.st.peer z = none) (slot : Nat) (reason : LossReason) :
    s.peerGone z slot reason = (s, []) := by
  unfold State.peerGone
  cases hp : s.st.peer z with
  | none => rfl
  | some p =>
    have hheld : s.st.heldSlots z ≠ [] := h.resolve_right (by simp [hp])
    simp [hheld]

theorem State.peerGone_leaves {p : Peer} (hheld : s.st.heldSlots z = []) (hp : s.st.peer z = some p) (slot : Nat)
    (reason : LossReason) :
    s.peerGone z slot reason =
      ({ s with st := s.st.dropPeer z
                ob := { s.ob with entries := (sweep (OutEntry.depart z) s.ob.entries).1 }
                ev := s.ev.offer (.peerLost z slot reason s.ct.cycle p.lastHeard) },
        (sweep (OutEntry.depart z) s.ob.entries).2) := by
  unfold State.peerGone
  simp only [hp, hheld, List.isEmpty_nil, if_true]
  rfl

/-- R99: what a departure leaves of an expecting entry, complete or not. -/
theorem OutEntry.depart_eq (z : Station) (e : OutEntry) :
    let gone := { e with send := e.send.map fun d => d.depart z }
    e.depart z = if z ∈ e.unanswered then (gone, if gone.unanswered = [] then some .complete else none)
      else (e, none) := by
  intro gone
  unfold OutEntry.depart
  simp only [List.contains_iff_mem]
  refine if_ctx_congr Iff.rfl (fun hz => ?_) fun _ => rfl
  have hsent : gone.send.isSome = true := by
    cases hd : e.send with
    | none => simp [OutEntry.unanswered, hd] at hz
    | some d => simp [gone, hd]
  simp only [OutEntry.settle, OutEntry.complete, gone] at hsent ⊢
  simp only [hsent, Bool.true_and, List.isEmpty_iff]

/-- Settles O30: the peer stays, or goes with the sweep of its departure; and the fields of a COVERAGE record. -/
theorem departureFollowsLastSlot : Obligations.DepartureFollowsLastSlot := by
  refine ⟨fun s z slot reason => ?_, fun e outcome => ?_⟩
  · intro departed
    refine ⟨fun h => ?_, fun p hheld hp => ?_⟩
    · rw [State.loseHeld, State.peerGone_stays h]
      rfl
    · have hdepart : ∀ e : OutEntry, e.depart z = if z ∈ e.unanswered then
          (departed e, if (departed e).unanswered = [] then some .complete else none) else (e, none) := fun e => e.depart_eq z
      have hleft : (sweep (OutEntry.depart z) s.ob.entries).1 = s.ob.entries.filterMap fun e =>
          if z ∈ e.unanswered then (if (departed e).unanswered = [] then none else some (departed e)) else some e := by
        rw [sweep_fst]
        refine List.filterMap_congr fun e _ => ?_
        rw [hdepart]
        split <;> [split; skip] <;> rfl
      have hclosed : (sweep (OutEntry.depart z) s.ob.entries).2 = s.ob.entries.filterMap fun e =>
          if z ∈ e.unanswered ∧ (departed e).unanswered = [] then some ((departed e).coverage .complete) else none := by
        rw [sweep_snd]
        refine List.filterMap_congr fun e _ => ?_
        rw [hdepart]
        by_cases hz : z ∈ e.unanswered <;> by_cases hd : (departed e).unanswered = [] <;> simp [hz, hd]
      rw [State.loseHeld, State.peerGone_leaves hheld hp, hleft, hclosed]
      rfl
  · refine ⟨_, rfl, rfl, rfl, rfl, rfl, fun hn => ?_, fun d hd => ?_⟩
    · simp only [hn, OutEntry.unanswered, OutEntry.cueKind]
      cases e.isCue <;> simp
    · simp only [hd, OutEntry.unanswered, OutEntry.cueKind, Option.map_some, Option.getD_some]
      refine ⟨trivial, trivial, by cases e.isCue <;> rfl, List.filter_sublist, fun z => ?_⟩
      rw [List.mem_filter]
      refine and_congr_right fun _ => ?_
      unfold SendData.isUnanswered
      cases answerOf d.answers z <;> simp

/-! ## A slot's end (R3, R20, R133) -/

/-- R20: what the judgement rests on. -/
def State.verdict (s : State) (slot : Nat) : State :=
  match s.slot.own with
  | .claimCompleted r => s.applyClaim r s.self.toNat
  | .completed released => if released then s else s.judgeCompleted slot
  | .bitError => s.judgeBroken slot
  | .silent | .arbitrationLost => s.judgeHeard slot

theorem State.judge_eq (h : s.ct.slotIndex = some slot) :
    s.judge = { s.verdict slot with slot := { (s.verdict slot).slot with judged := true } } := by
  simp only [State.judge, h]
  rfl

/-- Settles O28: the end's position and record, and the judgement by what stands in the report. -/
theorem slotEndJudges : Obligations.SlotEndJudges := by
  intro s slot hslot hrun hphase hjudged hfb ended t judged
  have hexec : ∀ late, exec (.slotEnds late) s = .next (s.endSlot slot late) := fun late => by
    simp only [exec, execSlotEnds, hslot, hrun, hphase, hjudged, hfb, and_self, if_true]
  have hjudge := State.judge_eq (s := t) hslot
  refine ⟨hexec none, fun bs hl => ?_, fun bs hl => ?_, fun r ho => ?_, fun ho => ?_, fun ho => ?_, fun ho => ?_,
    fun ho => ⟨fun r c hf => ?_, fun z hf => ?_, fun hf => ?_⟩⟩
  · rw [hexec]
    simp only [State.endSlot, hl, Bool.false_eq_true, if_false]
    rfl
  · rw [hexec]
    simp only [State.endSlot, hl, if_true]
    rfl
  all_goals have hown : t.slot.own = s.slot.own := rfl
  · rw [hjudge, State.verdict, hown, ho]
    rfl
  · rw [hjudge, State.verdict, hown, ho]
    rfl
  · rw [hjudge, State.verdict, hown, ho]
    rfl
  · rw [hjudge, State.verdict, hown, ho]
  all_goals
    have hheard : t.judge = judged (t.judgeHeard slot) := by
      rw [hjudge, State.verdict, hown]
      rcases ho with ho | ho <;> rw [ho]
    have hfinding : t.slot.finding = s.slot.finding := rfl
    rw [hheard, State.judgeHeard, hfinding]
  · rw [hf]
  · rw [hf]
  · rcases hf with hf | hf <;> rw [hf]

/-! ## Silences and releases (R27, R28) -/

/-- Settles O31: by the entry's view. -/
theorem silenceAndReleaseJudged : Obligations.SilenceAndReleaseJudged := by
  refine ⟨fun s slot e hslot he => ?_, fun s z r hr => ?_⟩
  · intro put freed
    have hentry := SlotTable.entry_of_getElem? hslot he
    have hput : ∀ e1, { s with st := s.st.put slot e1 } = put e1 := fun e1 => by rw [SlotTable.put_eq hslot]
    unfold State.seeSilence
    simp only [SlotTable.view_of_entry hentry, SlotTable.failures_of_entry hentry, SlotTable.view_zero, hput]
    refine ⟨trivial, fun h => ?_, fun c k h hl => ?_, fun c k h hl hc => ?_, fun k h hl => ?_, fun z n h hn => ?_,
      fun z n h hn hz => ?_, fun n h hn => ?_⟩ <;> simp only [h]
    · simp only [hl, Bool.false_eq_true, if_false]
    · simp only [hl, if_true, if_neg hc]
      rfl
    · simp only [hl, if_true]
      rfl
    · simp only [if_pos hn]
    · simp only [if_neg (Nat.not_lt.2 hn), if_neg hz]
      rfl
    · simp only [if_neg (Nat.not_lt.2 hn), if_true]
      rfl
  · intro freed
    have hput : { s with st := s.st.put r .free } = freed := by rw [SlotTable.put_eq hr]; rfl
    unfold State.applyRelease
    simp only [hput]
    refine ⟨fun h => ?_, fun k h => ?_, fun n h => ?_⟩
    · cases hv : s.st.view r with
      | free => rfl
      | claimed o k | held o k =>
        rw [hv] at h
        have ho : o ≠ z := fun ho => h (by rw [ho]; rfl)
        simp only [if_neg ho]
    · simp only [h, if_true]
    · simp only [h, if_true]

/-! ## The own frame (R29, R30) -/

/-- Settles O34: by the entry's view. -/
theorem ownFrameJudged : Obligations.OwnFrameJudged := by
  intro s slot e hslot he put freed gained
  have hentry := SlotTable.entry_of_getElem? hslot he
  have hput : ∀ e1, { s with st := s.st.put slot e1 } = put e1 := fun e1 => by rw [SlotTable.put_eq hslot]
  unfold State.judgeCompleted State.judgeBroken
  simp only [SlotTable.view_of_entry hentry, SlotTable.failures_of_entry hentry, hput]
  refine ⟨fun n h => ?_, fun k h => ?_, fun n h hf => ?_, fun n h hf => ?_, fun k h => ?_, fun h => ?_⟩
  · simp only [h, if_true]
  · simp only [h, if_true]
    rfl
  · simp only [h, if_true, if_neg (Nat.not_le.2 hf)]
  · simp only [h, if_true, if_pos hf]
    rfl
  · simp only [h, if_true]
    rfl
  · cases hv : e.view with
    | free => exact ⟨rfl, rfl⟩
    | claimed o k | held o k =>
      rw [hv] at h
      have ho : o ≠ s.self := fun ho => h (by rw [ho]; rfl)
      simp only [if_neg ho, and_self]

/-! ## Claims (R24, R36, R139) -/

/-- Settles O32: whether the slot is in range, who claims it, and what its entry shows. -/
theorem claimRecorded : Obligations.ClaimRecorded := by
  intro s r c touched put
  have hc : c.toNat ≤ 31 := Nat.le_of_lt_succ c.isLt
  have hnum : BitVec.ofNat 5 c.toNat = c := by simp
  have happly : s.applyClaim r c.toNat = touched (if 1 ≤ r ∧ r < s.slots then s.recordClaim r c else s) := by
    simp only [State.applyClaim, if_pos hc, hnum]
    rfl
  have hput : 1 ≤ r → { s with st := s.st.put r { view := .claimed c s.ct.cycle, failures := 0 } } = put := fun hr => by
    rw [SlotTable.put_eq hr]
  rw [happly]
  refine ⟨fun h => ?_, fun hr hlt hother => ?_, fun hr hlt hself => ?_⟩
  · rw [if_neg (by omega)]
  all_goals
    rw [if_pos ⟨hr, hlt⟩, State.recordClaim, hput hr]
    dsimp only
  · simp only [if_neg hother]
    refine ⟨fun n h => ?_, fun k h => ?_, fun h => ?_, fun y k h hy => ?_, fun y n h hy => ?_⟩ <;>
      simp only [h, SlotView.owner, Option.some.injEq, ne_eq, hother, not_false_eq_true, and_self, if_true, and_true]
    · rw [if_neg nofun]
    · rw [if_neg hy]
    · rw [if_neg hy, if_neg hy]
  · simp only [hself, ne_eq, not_true_eq_false, and_false, if_false, if_true]
    refine ⟨fun y n h hy => ?_, fun h => ?_⟩
    · rw [h]
      simp only [if_neg hy]
    · cases hv : s.st.view r with
      | free | claimed => rfl
      | held y n => simp only [h y n hv, if_true]

/-! ## A peer's slot frame (R26, R37 to R39) -/

theorem SlotTable.peer_isSome {t : SlotTable} : (t.peer z).isSome = true ↔ ∃ p ∈ t.roster, p.station = z := by
  simp [SlotTable.peer]

@[simp] theorem State.checkCounts_st (s : State) : s.checkCounts.st = s.st := by simp

/-- A departure leaves the slots. -/
theorem State.peerGone_entries (s : State) (y : Station) (slot : Nat) (reason : LossReason) :
    (s.peerGone y slot reason).1.st.entries = s.st.entries := by
  unfold State.peerGone
  split
  · rfl
  · split <;> rfl

/-- A departure takes no other station's record. -/
theorem State.peerGone_peer {y : Station} (h : z ≠ y) (slot : Nat) (reason : LossReason) :
    ((s.peerGone y slot reason).1.st.peer z).isSome = true ↔ (s.st.peer z).isSome = true := by
  unfold State.peerGone
  cases hp : s.st.peer y with
  | none => rfl
  | some p =>
    dsimp only
    split
    · have hz : (s.st.dropPeer y).peer z = s.st.peer z := by
        simp only [SlotTable.peer, SlotTable.dropPeer, List.find?_filter]
        refine List.find?_congr fun q _ => ?_
        by_cases hq : q.station = z <;> simp [hq, h]
      exact iff_of_eq (congrArg (fun o : Option Peer => o.isSome = true) hz)
    · rfl

/-- R36, R37: station `z` was heard in `slot`, after a displacement and its COVERAGE records. -/
def State.greet (cycle : Cycle) (slot : Nat) (z : Station) (gone : State × List EventRecord) : State :=
  if (gone.1.st.peer z).isSome then { gone.1 with st := gone.1.st.touch z cycle }.offers gone.2
  else { gone.1 with st := gone.1.st.addPeer z cycle }.offersUnordered gone.2 [.peerJoined z slot cycle]

theorem State.greet_known {gone : State × List EventRecord} (h : (gone.1.st.peer z).isSome = true) (cycle : Cycle)
    (slot : Nat) : State.greet cycle slot z gone = { gone.1 with st := gone.1.st.touch z cycle }.offers gone.2 :=
  if_pos h

theorem State.greet_new {gone : State × List EventRecord} (h : ¬(gone.1.st.peer z).isSome = true) (cycle : Cycle)
    (slot : Nat) : State.greet cycle slot z gone =
      { gone.1 with st := gone.1.st.addPeer z cycle }.offersUnordered gone.2 [.peerJoined z slot cycle] :=
  if_neg h

/-- R26: the part of the judgement that precedes the roster. -/
theorem State.seeOwner_eq (hslot : 1 ≤ slot) :
    let put : State := { s with st := { s.st with
      entries := s.st.entries.set (slot - 1) { view := .held z 0, failures := 0 } } }
    let roster := State.greet s.ct.cycle slot z
    ((s.st.view slot).owner = some s.self → s.seeOwner slot z = roster (put.checkCounts, [])) ∧
    (∀ y n, s.st.view slot = .held y n → y ≠ z → y ≠ s.self →
      s.seeOwner slot z = roster (put.peerGone y slot .displaced)) ∧
    ((s.st.view slot).owner ≠ some s.self → ¬(∃ y n, s.st.view slot = .held y n ∧ y ≠ z ∧ y ≠ s.self) →
      s.seeOwner slot z = roster (put, [])) := by
  intro put roster
  have hput : { s with st := s.st.put slot { view := .held z 0, failures := 0 } } = put := by rw [SlotTable.put_eq hslot]
  unfold State.seeOwner
  simp only [hput]
  change ((s.st.view slot).owner = some s.self → roster _ = _) ∧ (∀ y n, _ → _ → _ → roster _ = _) ∧ (_ → _ → roster _ = _)
  refine ⟨fun h => ?_, fun y n h hy hself => ?_, fun h hn => ?_⟩
  · simp only [h, if_true]
    cases hv : s.st.view slot with
    | free | claimed => rfl
    | held y n =>
      have hy : y = s.self := by simpa [hv, SlotView.owner] using h
      simp only [hy, or_true, if_true]
  · simp only [h, SlotView.owner, Option.some.injEq, hy, hself, or_self, if_false]
  · simp only [h, if_false]
    cases hv : s.st.view slot with
    | free | claimed => rfl
    | held y n =>
      have hy : y = z ∨ y = s.self := by
        by_contra hne
        exact hn ⟨y, n, hv, not_or.1 hne⟩
      simp only [hy, if_true]

/-- Settles O33: a station known or not, and what the slot showed before. -/
theorem ownerSeen : Obligations.OwnerSeen := by
  intro s slot z hslot hz put known touched joined own other
  obtain ⟨hown, hother, hneither⟩ := State.seeOwner_eq hslot (s := s) (z := z)
  have hput : (put.st.peer z).isSome = true ↔ known := SlotTable.peer_isSome
  have hchecked : (put.checkCounts.st.peer z).isSome = true ↔ known := by rw [State.checkCounts_st, hput]
  have hgone : ∀ y, y ≠ z → (((put.peerGone y slot .displaced).1.st.peer z).isSome = true ↔ known) := fun y hy =>
    (State.peerGone_peer (Ne.symm hy) ..).trans hput
  refine ⟨fun hk ho => ?_, fun hk ho hn => ?_, fun y n hk hv hy hself => ?_, fun hk ho => ?_, fun hk ho hn => ?_,
    fun y n hk hv hy hself => ?_⟩
  · rw [hown ho, State.greet_known (hchecked.2 hk)]
    rfl
  · rw [hneither ho hn, State.greet_known (hput.2 hk)]
    rfl
  · rw [hother y n hv hy hself, State.greet_known ((hgone y hy).2 hk)]
    rfl
  · rw [hown ho, State.greet_new (mt hchecked.1 hk)]
    rfl
  · rw [hneither ho hn, State.greet_new (mt hput.1 hk)]
    rfl
  · rw [hother y n hv hy hself, State.greet_new (mt (hgone y hy).1 hk)]
    obtain ⟨records, choices, hmerge, heq⟩ := State.offersUnordered_spec
      { (put.peerGone y slot .displaced).1 with
        st := (put.peerGone y slot .displaced).1.st.addPeer z s.ct.cycle } (put.peerGone y slot .displaced).2
      [.peerJoined z slot s.ct.cycle]
    exact ⟨records, choices, hmerge, heq⟩

end Sys2Proof.Machine
end

section
/-! PROOFS. The roster: which peers hold a slot and which stations an outbox entry still expects, through every operation and every step. -/

namespace Sys2Proof.Machine

/-! ## What an outbox entry expects (R93, R97 to R99) -/

/-- R99: this station is in no expected set, and an unanswered station is PRESENT. -/
def SendData.Expects (self : Station) (present : List Station) (d : SendData) : Prop :=
  self ∉ d.expected ∧ ∀ z ∈ d.expected, d.isUnanswered z = true → z ∈ present

/-- The same of an entry that has been sent. -/
def OutEntry.Expects (self : Station) (present : List Station) (e : OutEntry) : Prop :=
  ∀ d, e.send = some d → d.Expects self present

theorem OutEntry.expects_iff {self : Station} {present : List Station} {e : OutEntry} :
    e.Expects self present ↔
      (∀ d, e.send = some d → self ∉ d.expected) ∧ ∀ z ∈ e.unanswered, z ∈ present := by
  unfold OutEntry.Expects OutEntry.unanswered SendData.Expects
  cases e.send with
  | none => simp
  | some d => simp

theorem OutEntry.Expects.of_send {self : Station} {present : List Station} {e x : OutEntry} (h : e.Expects self present)
    (hx : x.send = e.send) : x.Expects self present := fun d hd => h d (hx ▸ hd)

/-- R97: an answered station is not unanswered again. -/
theorem takeVerdict_answered {before : Option Verdict} {v w : Verdict} (h : takeVerdict before v = some w)
    (hw : w = .queueFull) : before = none ∨ before = some .queueFull := by
  subst hw
  cases before with
  | none => exact .inl rfl
  | some old => cases old <;> cases v <;> simp_all [takeVerdict]

theorem SendData.expects_answer {self : Station} {present : List Station} {d : SendData} (h : d.Expects self present)
    (z : Station) (v : Verdict) : (d.answer z v).Expects self present := by
  have hexpected : (d.answer z v).expected = d.expected := by
    unfold SendData.answer
    split <;> rfl
  refine ⟨hexpected ▸ h.1, fun y hy hu => h.2 y (hexpected ▸ hy) ?_⟩
  obtain ⟨w, hw⟩ := exists_takeVerdict_eq_some (answerOf d.answers z) v
  unfold SendData.isUnanswered at hu ⊢
  rw [SendData.answerOf_answer] at hu
  by_cases hyz : y = z
  · subst hyz
    rw [if_pos rfl, hw] at hu
    rcases takeVerdict_answered hw (by simpa using hu) with hn | hq
    · simp [hn]
    · simp [hq]
  · rw [if_neg hyz] at hu
    exact hu

theorem answerOf_filter_of_ne {y z : Station} (h : y ≠ z) (as : List (Station × Verdict)) :
    answerOf (as.filter fun a => a.1 != z) y = answerOf as y := by
  unfold answerOf
  rw [List.find?_filter]
  congr 1
  refine List.find?_congr fun a _ => ?_
  by_cases ha : a.1 = y <;> simp [ha, h]

/-- R99: a departed station is expected no longer. -/
theorem SendData.expects_depart {self : Station} {present : List Station} {d : SendData} (h : d.Expects self present)
    (z : Station) : (d.depart z).Expects self (present.filter fun y => y != z) := by
  refine ⟨fun hs => h.1 (List.mem_of_mem_filter hs), fun y hy hu => ?_⟩
  obtain ⟨hmem, hne⟩ := List.mem_filter.1 hy
  have hyz : y ≠ z := by simpa using hne
  refine List.mem_filter.2 ⟨h.2 y hmem ?_, hne⟩
  unfold SendData.isUnanswered at hu ⊢
  rwa [SendData.depart, answerOf_filter_of_ne hyz] at hu

theorem OutEntry.expects_depart {self : Station} {present : List Station} {e : OutEntry} (h : e.Expects self present)
    (z : Station) : (e.depart z).1.Expects self (present.filter fun y => y != z) := by
  rw [OutEntry.depart_eq]
  split
  · intro d hd
    obtain ⟨d', hd', rfl⟩ := Option.map_eq_some_iff.1 hd
    exact SendData.expects_depart (h d' hd') z
  · next hz =>
    refine OutEntry.expects_iff.2 ⟨(OutEntry.expects_iff.1 h).1, fun y hy => List.mem_filter.2 ⟨?_, ?_⟩⟩
    · exact (OutEntry.expects_iff.1 h).2 y hy
    · simpa using fun hyz : y = z => hz (hyz ▸ hy)

/-! ## Who holds a slot (R35) -/

theorem SlotTable.heldSlots_ne_nil {t : SlotTable} {z : Station} :
    t.heldSlots z ≠ [] ↔ ∃ k, (t.view k).heldBy z = true := by
  have hmem : t.heldSlots z ≠ [] ↔ ∃ k, k ∈ t.heldSlots z :=
    ⟨List.exists_mem_of_ne_nil _, fun ⟨_, h⟩ => List.ne_nil_of_mem h⟩
  refine hmem.trans <| exists_congr fun k => (mem_slotsWhere ..).trans ⟨fun ⟨e, hk, he, hp⟩ => ?_, fun hk => ?_⟩
  · rwa [SlotTable.view_of_entry (SlotTable.entry_of_getElem? hk he)]
  · cases he : t.entry k with
    | none => simp [SlotTable.view, he, SlotView.heldBy] at hk
    | some e =>
      rw [SlotTable.view_of_entry he] at hk
      unfold SlotTable.entry at he
      split at he
      · cases he
      · exact ⟨e, by omega, he, hk⟩

theorem SlotTable.view_put (t : SlotTable) (slot k : Nat) (e : SlotEntry) :
    (t.put slot e).view k = if k = slot ∧ 1 ≤ slot ∧ slot ≤ t.entries.length then e.view else t.view k := by
  unfold SlotTable.view
  rw [SlotTable.entry_put]
  split <;> rfl

/-- Only the holder before and the one after see a difference when an entry is replaced. -/
theorem SlotTable.heldSlots_put_iff {t : SlotTable} {slot : Nat} {e : SlotEntry} {z : Station}
    (h : (t.view slot).heldBy z = e.view.heldBy z) : (t.put slot e).heldSlots z ≠ [] ↔ t.heldSlots z ≠ [] := by
  rw [SlotTable.heldSlots_ne_nil, SlotTable.heldSlots_ne_nil]
  refine exists_congr fun k => ?_
  rw [SlotTable.view_put]
  split
  · next hk => rw [hk.1, h]
  · exact Iff.rfl

theorem SlotTable.heldSlots_of_put {t : SlotTable} {slot : Nat} {e : SlotEntry} {z : Station}
    (he : e.view.heldBy z = false) (h : (t.put slot e).heldSlots z ≠ []) : t.heldSlots z ≠ [] := by
  obtain ⟨k, hk⟩ := SlotTable.heldSlots_ne_nil.1 h
  rw [SlotTable.view_put] at hk
  split at hk
  · simp [he] at hk
  · exact SlotTable.heldSlots_ne_nil.2 ⟨k, hk⟩

theorem SlotTable.heldSlots_put_self {t : SlotTable} {slot : Nat} {e : SlotEntry} {z : Station}
    (he : e.view.heldBy z = true) (hslot : 1 ≤ slot) (hlen : slot ≤ t.entries.length) :
    (t.put slot e).heldSlots z ≠ [] :=
  SlotTable.heldSlots_ne_nil.2 ⟨slot, by rw [SlotTable.view_put, if_pos ⟨rfl, hslot, hlen⟩, he]⟩

@[simp] theorem SlotTable.put_present (t : SlotTable) (slot : Nat) (e : SlotEntry) : (t.put slot e).present = t.present := by
  simp [SlotTable.present]

@[simp] theorem SlotTable.touch_present (t : SlotTable) (z : Station) (cycle : Cycle) :
    (t.touch z cycle).present = t.present := by
  simp only [SlotTable.present, SlotTable.touch, List.map_map]
  refine List.map_congr_left fun p _ => ?_
  simp only [Function.comp_apply]
  split <;> rfl

@[simp] theorem SlotTable.dropPeer_present (t : SlotTable) (z : Station) :
    (t.dropPeer z).present = t.present.filter fun y => y != z := by
  rw [SlotTable.present, SlotTable.dropPeer, SlotTable.present, List.filter_map]
  rfl

theorem mem_insertPeer {p q : Peer} {ps : List Peer} : q ∈ insertPeer p ps ↔ q = p ∨ q ∈ ps := by
  induction ps with
  | nil => simp [insertPeer]
  | cons x xs ih =>
    unfold insertPeer
    split
    · simp
    · simp only [List.mem_cons, ih]
      tauto

/-- R37: the new record stands in its ascending place. -/
theorem insertPeer_ascending {p : Peer} {ps : List Peer} (h : ps.Pairwise fun a b => a.station < b.station)
    (hp : ∀ q ∈ ps, q.station ≠ p.station) : (insertPeer p ps).Pairwise fun a b => a.station < b.station := by
  induction ps with
  | nil => simp [insertPeer]
  | cons x xs ih =>
    obtain ⟨hx, hxs⟩ := List.pairwise_cons.1 h
    unfold insertPeer
    split
    · next hlt =>
      refine List.pairwise_cons.2 ⟨fun q hq => ?_, h⟩
      rcases List.mem_cons.1 hq with rfl | hq
      · exact hlt
      · exact BitVec.lt_trans hlt (hx q hq)
    · next hlt =>
      refine List.pairwise_cons.2 ⟨fun q hq => ?_, ih hxs fun q hq => hp q (List.mem_cons_of_mem _ hq)⟩
      rcases mem_insertPeer.1 hq with rfl | hq
      · have hne : x.station ≠ q.station := hp x List.mem_cons_self
        bv_omega
      · exact hx q hq

theorem SlotTable.mem_present {t : SlotTable} {z : Station} : z ∈ t.present ↔ (t.peer z).isSome = true := by
  rw [SlotTable.peer_isSome, SlotTable.present, List.mem_map]

/-! ## The law, with some stations in doubt -/

/-- The law of the roster but for the stations in doubt, whose slots have changed and whose records have not. -/
structure State.RosterBut (doubt : Station → Prop) (s : State) : Prop where
  ascending : s.st.roster.Pairwise fun p q => p.station < q.station
  stranger : s.self ∉ s.st.present
  mirror : ∀ z, z ≠ s.self → ¬doubt z → (z ∈ s.st.present ↔ s.st.heldSlots z ≠ [])
  expects : ∀ e ∈ s.ob.entries, e.Expects s.self s.st.present
  entries : s.st.entries.length = if s.sc.state = .config then 0 else s.slots - 1
  configured : s.sc.state ≠ .config → s.sc.image.isSome = true
  configuring : s.sc.state = .config → s.ob.entries = [] ∧ s.slot.finding = none
  inCycle : ∀ k, s.ct.slotIndex = some k → k < s.slots
  finding : ∀ z, s.slot.finding = some (.slotFrame z) → z ≠ s.self ∧ s.ct.slotIndex ≠ some 0

/-- No station is in doubt. -/
def noDoubt (_ : Station) : Prop := False

theorem State.rosterLawful_iff {s : State} : s.RosterLawful ↔ s.RosterBut noDoubt := by
  have hexpects : (∀ e ∈ s.ob.entries, e.Expects s.self s.st.present) ↔
      (∀ e ∈ s.ob.entries, ∀ d, e.send = some d → s.self ∉ d.expected) ∧
        ∀ e ∈ s.ob.entries, ∀ z ∈ e.unanswered, z ∈ s.st.present := by
    simp only [OutEntry.expects_iff]
    exact forall₂_and
  constructor
  · intro h
    exact {
      h with
      stranger := fun hs => ((h.mirror _).1 hs).1 rfl
      mirror := fun z hz _ => (h.mirror z).trans (and_iff_right hz)
      expects := hexpects.2 ⟨h.expected, h.unanswered⟩ }
  · intro h
    exact {
      h with
      mirror := fun z => by
        by_cases hz : z = s.self
        · subst hz
          simp [h.stranger]
        · rw [h.mirror z hz id, and_iff_right hz]
      expected := (hexpects.1 h.expects).1
      unanswered := (hexpects.1 h.expects).2 }

/-- The parts of the state that the law speaks of. -/
def State.rosterView (s : State) : StationState × Option Image × List SlotEntry × List Peer × List OutEntry ×
    Option Finding × Option Nat :=
  (s.sc.state, s.sc.image, s.st.entries, s.st.roster, s.ob.entries, s.slot.finding, s.ct.slotIndex)

theorem State.rosterView_eq_iff {s t : State} : t.rosterView = s.rosterView ↔
    t.sc.state = s.sc.state ∧ t.sc.image = s.sc.image ∧ t.st.entries = s.st.entries ∧ t.st.roster = s.st.roster ∧
    t.ob.entries = s.ob.entries ∧ t.slot.finding = s.slot.finding ∧ t.ct.slotIndex = s.ct.slotIndex := by
  simp [State.rosterView]

namespace State.RosterBut

variable {s t : State} {doubt : Station → Prop}

theorem same (h : s.RosterBut doubt) (hview : t.rosterView = s.rosterView) : t.RosterBut doubt := by
  obtain ⟨hstate, himage, hentries, hroster, hob, hfinding, hslot⟩ := State.rosterView_eq_iff.1 hview
  have hself : t.self = s.self := by unfold State.self; rw [himage]
  have hslots : t.slots = s.slots := by unfold State.slots; rw [himage]
  have hpresent : t.st.present = s.st.present := by unfold SlotTable.present; rw [hroster]
  have hheld : ∀ z, t.st.heldSlots z = s.st.heldSlots z := fun z => by unfold SlotTable.heldSlots; rw [hentries]
  exact {
    ascending := hroster ▸ h.ascending
    stranger := by rw [hself, hpresent]; exact h.stranger
    mirror := by simpa only [hself, hpresent, hheld] using h.mirror
    expects := by simpa only [hself, hpresent, hob] using h.expects
    entries := by simpa only [hstate, hslots, hentries] using h.entries
    configured := by simpa only [hstate, himage] using h.configured
    configuring := by simpa only [hstate, hob, hfinding] using h.configuring
    inCycle := by simpa only [hslot, hslots] using h.inCycle
    finding := by simpa only [hself, hfinding, hslot] using h.finding }

/-- A station state that is as much CONFIG as the one before. -/
theorem state (h : s.RosterBut doubt) {sc : StationController} (himage : sc.image = s.sc.image)
    (hconfig : sc.state = .config ↔ s.sc.state = .config) : ({ s with sc := sc } : State).RosterBut doubt := by
  have hself : ({ s with sc := sc } : State).self = s.self := by unfold State.self; rw [himage]
  have hslots : ({ s with sc := sc } : State).slots = s.slots := by unfold State.slots; rw [himage]
  exact {
    ascending := h.ascending
    stranger := hself ▸ h.stranger
    mirror := hself ▸ h.mirror
    expects := hself ▸ h.expects
    entries := by simpa only [hconfig, hslots] using h.entries
    configured := by simpa only [ne_eq, hconfig, himage] using h.configured
    configuring := by simpa only [hconfig] using h.configuring
    inCycle := hslots ▸ h.inCycle
    finding := hself ▸ h.finding }

theorem offers (h : s.RosterBut doubt) (rs : List EventRecord) : (s.offers rs).RosterBut doubt := h.same rfl

theorem cq (h : s.RosterBut doubt) (q : CueQueue) : ({ s with cq := q } : State).RosterBut doubt := h.same rfl

theorem offersUnordered (h : s.RosterBut doubt) (xs ys : List EventRecord) :
    (s.offersUnordered xs ys).RosterBut doubt := h.same (by simp [State.rosterView])

/-- R156: a change of the station state among those that are not CONFIG. -/
theorem change (h : s.RosterBut doubt) {after : StationState} (hs : s.sc.state ≠ .config) (ha : after ≠ .config)
    (reason : Reason) : (s.changeState after reason).RosterBut doubt :=
  (h.state (sc := { s.sc with state := after }) rfl (iff_of_false ha hs)).same rfl

theorem checkCounts (h : s.RosterBut doubt) : s.checkCounts.RosterBut doubt := by
  unfold State.checkCounts
  split
  · next hs => split
               · exact h.change (by simp [hs]) (by simp) _
               · exact h
  · next hs => split
               · exact h.change (by simp [hs]) (by simp) _
               · exact h
  · next hs => split
               · exact h.change (by simp [hs]) (by simp) _
               · exact h
  all_goals exact h

/-- The finding of a slot, or another slot. -/
theorem report (h : s.RosterBut doubt) {slot : SlotReport} {ct : CycleTimer}
    (hfinding : slot.finding = none ∨ s.sc.state ≠ .config)
    (hpeer : ∀ z, slot.finding = some (.slotFrame z) → z ≠ s.self ∧ ct.slotIndex ≠ some 0)
    (hslot : ∀ k, ct.slotIndex = some k → k < s.slots) :
    ({ s with slot := slot, ct := ct } : State).RosterBut doubt :=
  { h with
    configuring := fun hs => ⟨(h.configuring hs).1, hfinding.resolve_right (not_not.2 hs)⟩
    inCycle := hslot
    finding := hpeer }

/-! The outbox. -/

/-- A sweep that keeps what each entry expects. -/
theorem sweepOutbox (h : s.RosterBut doubt) {f : OutEntry → OutEntry × Option Outcome}
    (hf : ∀ e ∈ s.ob.entries, e.Expects s.self s.st.present → (f e).1.Expects s.self s.st.present) :
    (s.sweepOutbox f).RosterBut doubt := by
  rw [State.sweepOutbox_eq]
  exact {
    h with
    expects := fun x hx => by
      obtain ⟨e, he, hxe⟩ := List.mem_filterMap.1 hx
      simp only [Option.ite_none_right_eq_some, Option.some.injEq] at hxe
      exact hxe.2 ▸ hf e he (h.expects e he)
    configuring := fun hs => ⟨by simp [(h.configuring hs).1], (h.configuring hs).2⟩ }

/-- A sweep that leaves the send data. -/
theorem sweepKeeping (h : s.RosterBut doubt) {f : OutEntry → OutEntry × Option Outcome}
    (hf : ∀ e, (f e).1.send = e.send) : (s.sweepOutbox f).RosterBut doubt :=
  h.sweepOutbox fun e _ he => he.of_send (hf e)

theorem onEntry_send {kind : CueKind} {n : Serial} {f : OutEntry → OutEntry × Option Outcome}
    (hf : ∀ e, (f e).1.send = e.send) (e : OutEntry) : (onEntry kind n f e).1.send = e.send := by
  unfold onEntry
  split
  · exact hf e
  · rfl

theorem onEntry_expects {self : Station} {present : List Station} {kind : CueKind} {n : Serial}
    {f : OutEntry → OutEntry × Option Outcome} {e : OutEntry} (h : e.Expects self present)
    (hf : e.Expects self present → (f e).1.Expects self present) : (onEntry kind n f e).1.Expects self present := by
  unfold onEntry
  split
  · exact hf h
  · exact h

theorem takeAck (h : s.RosterBut doubt) (z : Station) (n : Serial) (v : Verdict) : (s.takeAck z n v).RosterBut doubt := by
  unfold State.takeAck
  split
  · exact h.same rfl
  · split
    · refine h.sweepOutbox fun e _ he => onEntry_expects he fun he d hd => ?_
      obtain ⟨d', hd', rfl⟩ := Option.map_eq_some_iff.1 hd
      exact SendData.expects_answer (he d' hd') z v
    · exact h.same rfl

/-- R93: the data of a first send expect the PRESENT stations. -/
theorem firstSend_expects (h : s.RosterBut doubt) (deadline : Nat) :
    (s.firstSend deadline).Expects s.self s.st.present := ⟨h.stranger, fun _ hz _ => hz⟩

theorem cancelSelf (h : s.RosterBut doubt) (n : Serial) (v : Verdict) : (s.cancelSelf n v).RosterBut doubt :=
  h.sweepKeeping (onEntry_send fun _ => rfl)

theorem ownVerdict (h : s.RosterBut doubt) (n : Serial) (v : Verdict) : (s.ownVerdict n v).RosterBut doubt := by
  unfold State.ownVerdict
  split
  · exact h.sweepKeeping (onEntry_send fun _ => rfl)
  · exact h.cancelSelf n v

theorem offerOwn (h : s.RosterBut doubt) (item : CueItem) : (s.offerOwn item).RosterBut doubt :=
  ((h.cq _).offers _).ownVerdict _ _

theorem settleEntry (h : s.RosterBut doubt) (kind : CueKind) (n : Serial) :
    (s.sweepOutbox (onEntry kind n OutEntry.settle)).RosterBut doubt :=
  h.sweepKeeping (onEntry_send fun _ => rfl)

theorem cueFirstSend (h : s.RosterBut doubt) (n : Serial) (t : CueTemplate) (pending : Bool) :
    (s.cueFirstSend n t pending).RosterBut doubt := by
  unfold State.cueFirstSend
  extract_lets id sent offered cancelled settled closed
  have hsent : sent.RosterBut doubt := h.sweepOutbox fun e _ he => onEntry_expects he fun _ d hd => by
    cases hd
    exact h.firstSend_expects _
  have hoffered : offered.RosterBut doubt := hsent.offerOwn _
  have hsettled : settled.RosterBut doubt := by
    simp only [settled]
    split
    · exact (hoffered.cq _).cancelSelf _ _
    · exact hoffered
  split
  · exact (hsettled.settleEntry .cue n).sweepKeeping (onEntry_send fun _ => rfl)
  · exact hsettled.settleEntry .cue n

/-- R94: a retry leaves the expected set and the answers. -/
theorem again (h : s.RosterBut doubt) (kind : CueKind) (n : Serial) (state : OutState) :
    (s.sweepOutbox (onEntry kind n fun e =>
      ({ e with state := state, send := e.send.map fun d => d.again s.ct.cycle }, none))).RosterBut doubt :=
  h.sweepOutbox fun e _ he => onEntry_expects he fun he d hd => by
    obtain ⟨d', hd', rfl⟩ := Option.map_eq_some_iff.1 hd
    exact he d' hd'

theorem cueRetrySent (h : s.RosterBut doubt) (n : Serial) (t : CueTemplate) (lead : Nat) :
    (s.cueRetrySent n t lead).RosterBut doubt := (h.again .cue n .sent).offerOwn _

theorem cancelRetrySent (h : s.RosterBut doubt) (n : Serial) : (s.cancelRetrySent n).RosterBut doubt :=
  h.again .cancel n .sent

theorem cancelFirstSend (h : s.RosterBut doubt) (n : Serial) (self : Option Verdict) :
    (s.cancelFirstSend n self).RosterBut doubt := by
  unfold State.cancelFirstSend
  extract_lets sent searched taken
  have hsent : sent.RosterBut doubt := h.sweepOutbox fun e _ he => onEntry_expects he fun _ d hd => by
    cases hd
    exact h.firstSend_expects _
  have htaken : taken.RosterBut doubt := by
    simp only [taken]
    split
    · exact hsent
    · exact (hsent.cq _).cancelSelf _ _
  exact htaken.settleEntry .cancel n

theorem itemSent (h : s.RosterBut doubt) (item : TxItem) : (s.itemSent item).RosterBut doubt := by
  unfold State.itemSent
  split
  · exact h
  · exact h
  · split
    · exact h.cueFirstSend _ _ _
    · exact h.cueRetrySent _ _ _
    · exact h
  · split
    · exact h.cancelFirstSend _ _
    · exact h.cancelRetrySent _
    · exact h

theorem itemsFailed (h : s.RosterBut doubt) (items : List TxItem) : (s.itemsFailed items).RosterBut doubt :=
  h.sweepKeeping fun e => by
    unfold OutEntry.takenBack OutEntry.fail OutEntry.withdraw
    dsimp only
    split_ifs <;> rfl

/-! The slot table. -/

/-- An entry replaced: the holder before and the one after it come into doubt. -/
theorem put (h : s.RosterBut doubt) {doubt' : Station → Prop} (slot : Nat) (e : SlotEntry)
    (hdoubt : ∀ z, z ≠ s.self → ¬doubt' z → ¬doubt z ∧ (s.st.view slot).heldBy z = e.view.heldBy z) :
    ({ s with st := s.st.put slot e } : State).RosterBut doubt' where
  ascending := by simpa using h.ascending
  stranger := by
    rw [SlotTable.put_present]
    exact h.stranger
  mirror z hz hd := by
    obtain ⟨hd', hsame⟩ := hdoubt z hz hd
    rw [SlotTable.put_present, SlotTable.heldSlots_put_iff hsame]
    exact h.mirror z hz hd'
  expects := by
    rw [SlotTable.put_present]
    exact h.expects
  entries := (SlotTable.put_roster ..).2.2.trans h.entries
  configured := h.configured
  configuring := h.configuring
  inCycle := h.inCycle
  finding := h.finding

/-- No doubt is left where the record and the slots agree. -/
theorem settled (h : s.RosterBut doubt)
    (hdoubt : ∀ z, doubt z → z ≠ s.self → (z ∈ s.st.present ↔ s.st.heldSlots z ≠ [])) : s.RosterBut noDoubt :=
  { h with mirror := fun z hz _ => (em (doubt z)).elim (fun hd => hdoubt z hd hz) (h.mirror z hz) }

/-- Where fewer stations are in doubt, as many may be called so. -/
theorem weaken (h : s.RosterBut doubt) {doubt' : Station → Prop} (hdoubt : ∀ z, doubt z → doubt' z) :
    s.RosterBut doubt' :=
  { h with mirror := fun z hz hd => h.mirror z hz (mt (hdoubt z) hd) }

/-- R39, R99: a station whose slot was lost leaves the roster and the expected sets with its last one. -/
theorem peerGone (h : s.RosterBut doubt) {y : Station} (hy : s.st.heldSlots y ≠ [] → y = s.self ∨ y ∈ s.st.present)
    (slot : Nat) (reason : LossReason) :
    (s.peerGone y slot reason).1.RosterBut fun z => doubt z ∧ z ≠ y := by
  by_cases hstay : s.st.heldSlots y ≠ [] ∨ s.st.peer y = none
  · rw [State.peerGone_stays hstay]
    refine { h with mirror := fun z hz hd => ?_ }
    by_cases hzy : z = y
    · subst hzy
      refine ⟨fun hp => hstay.resolve_right fun hn => ?_, fun hh => (hy hh).resolve_left hz⟩
      simp [SlotTable.mem_present, hn] at hp
    · exact h.mirror z hz fun hdz => hd ⟨hdz, hzy⟩
  · obtain ⟨hheld, hpeer⟩ := not_or.1 hstay
    obtain ⟨p, hp⟩ := Option.ne_none_iff_exists'.1 hpeer
    rw [State.peerGone_leaves (not_not.1 hheld) hp]
    exact {
      h with
      ascending := h.ascending.sublist List.filter_sublist
      stranger := by
        rw [SlotTable.dropPeer_present]
        exact fun hs => h.stranger (List.mem_of_mem_filter hs)
      mirror := fun z hz hd => by
        rw [SlotTable.dropPeer_present, List.mem_filter]
        by_cases hzy : z = y
        · subst hzy
          exact iff_of_false (fun hm => by simp at hm) hheld
        · have hiff := h.mirror z hz fun hdz => hd ⟨hdz, hzy⟩
          rw [and_iff_left (by simpa using hzy)]
          exact hiff
      expects := fun x hx => by
        rw [SlotTable.dropPeer_present]
        simp only [sweep_fst, List.mem_filterMap, Option.ite_none_right_eq_some, Option.some.injEq] at hx
        obtain ⟨e, he, -, rfl⟩ := hx
        exact OutEntry.expects_depart (h.expects e he) y
      configuring := fun hs => ⟨by simp [(h.configuring hs).1, sweep], (h.configuring hs).2⟩ }

end State.RosterBut

end Sys2Proof.Machine
end

section
/-! PROOFS. The law of the roster through the judgement of a slot, the own frame, reception and the openings, and over every step. -/

namespace Sys2Proof.Machine

namespace State.RosterBut

variable {s t : State} {doubt : Station → Prop} {slot : Nat} {z : Station}

/-! ## The own slot -/

/-- An entry replaced whose holder before and after is no peer, or the same peer. -/
theorem putSame (h : s.RosterBut noDoubt) (slot : Nat) (e : SlotEntry)
    (he : ∀ z, z ≠ s.self → (s.st.view slot).heldBy z = e.view.heldBy z) :
    ({ s with st := s.st.put slot e } : State).RosterBut noDoubt :=
  h.put slot e fun z hz _ => ⟨id, he z hz⟩

/-- R19: an entry that no peer holds becomes one that no peer holds. -/
theorem putOwn (h : s.RosterBut noDoubt) {e : SlotEntry} (hv : ∀ y n, s.st.view slot = .held y n → y = s.self)
    (he : ∀ y n, e.view = .held y n → y = s.self) : ({ s with st := s.st.put slot e } : State).RosterBut noDoubt := by
  have hnone : ∀ v : SlotView, (∀ y n, v = .held y n → y = s.self) → ∀ z, z ≠ s.self → v.heldBy z = false :=
    fun v hv z hz => by
      cases v with
      | free | claimed => rfl
      | held y n => simpa [SlotView.heldBy, hv y n rfl] using hz.symm
  exact h.putSame slot e fun z hz => by rw [hnone _ hv z hz, hnone _ he z hz]

/-- R19: an entry that no peer holds falls. -/
theorem putFree (h : s.RosterBut noDoubt) (hv : ∀ y n, s.st.view slot = .held y n → y = s.self) :
    ({ s with st := s.st.put slot .free } : State).RosterBut noDoubt :=
  h.putOwn hv nofun

theorem eq_self_of_owner {v : SlotView} {self y : Station} {n : Nat} (hv : v.owner = some self) (h : v = .held y n) :
    y = self := by
  subst h
  exact Option.some.inj hv

/-- A peer that held the entry loses it, and leaves with its last one. -/
theorem putLose (h : s.RosterBut noDoubt) {y : Station} {n : Nat} {e : SlotEntry} (hv : s.st.view slot = .held y n)
    (he : ∀ z, z ≠ s.self → e.view.heldBy z = false) (k : Nat) (reason : LossReason) :
    (({ s with st := s.st.put slot e } : State).loseHeld y k reason).RosterBut noDoubt := by
  have hput : ({ s with st := s.st.put slot e } : State).RosterBut (· = y) := h.put slot e fun z hz hzy =>
    ⟨id, by rw [hv, he z hz]; simpa [SlotView.heldBy] using Ne.symm hzy⟩
  have hgone := hput.peerGone (y := y) (fun hh => ?_) k reason
  · exact (hgone.settled fun z hz => absurd hz.1 hz.2).offers _
  · refine (em (y = s.self)).imp_right fun hy => ?_
    rw [SlotTable.put_present]
    exact (h.mirror y hy id).2 (SlotTable.heldSlots_of_put (he y hy) hh)

theorem setFailures (h : s.RosterBut noDoubt) (slot n : Nat) : (s.setFailures slot n).RosterBut noDoubt := by
  unfold State.setFailures
  split
  · exact h
  · next e he => exact h.putSame slot _ fun z _ => by rw [SlotTable.view_of_entry he]

theorem endFrame (h : s.RosterBut noDoubt) (own : OwnOutcome) : (s.endFrame own).RosterBut noDoubt := by
  by_cases ho : own = .arbitrationLost
  · exact (h.report (slot := { s.slot with own := own, finding := none }) (ct := s.ct) (.inl rfl) nofun h.inCycle).same
      (by simp [State.rosterView, State.endFrame, ho])
  · exact h.same (by simp [State.rosterView, State.endFrame, ho])

theorem heldBy_self {v : SlotView} {self y : Station} {n : Nat} (hv : v.heldBy self = true) (h : v = .held y n) :
    y = self := by
  subst h
  simpa [SlotView.heldBy] using hv

theorem claimedBy_self {v : SlotView} {self y : Station} {n : Nat} (hv : v.claimedBy self = true) (h : v = .held y n) :
    y = self := by
  subst h
  cases hv

theorem releaseOwn (h : s.RosterBut noDoubt) (slot : Nat) : (s.releaseOwn slot).RosterBut noDoubt := by
  unfold State.releaseOwn
  split
  · next hv => exact ((h.putFree fun _ _ => heldBy_self hv).offers [_]).checkCounts
  · exact h

theorem loseOwn (h : s.RosterBut noDoubt) (slot : Nat) : (s.loseOwn slot).RosterBut noDoubt := by
  unfold State.loseOwn
  split
  · next hv => exact ((h.putFree fun _ _ => heldBy_self hv).offers [_]).checkCounts
  · split
    · next hv => exact (h.putFree fun _ _ => claimedBy_self hv).checkCounts
    · exact h

theorem itemsSent (h : s.RosterBut doubt) (items : List TxItem) : (items.foldl State.itemSent s).RosterBut doubt :=
  List.foldlRecOn items State.itemSent h fun _ ht item _ => ht.itemSent item

theorem counters (h : s.RosterBut doubt) (c : Counters) : ({ s with counters := c } : State).RosterBut doubt := h.same rfl

theorem countFormat (h : s.RosterBut doubt) : s.countFormat.RosterBut doubt := h.counters _

theorem countCrc (h : s.RosterBut doubt) : s.countCrc.RosterBut doubt := h.counters _

theorem line (h : s.RosterBut doubt) (lc : LineController) : ({ s with lc := lc } : State).RosterBut doubt := h.same rfl

theorem staging (h : s.RosterBut doubt) (fb : FrameBuilder) : ({ s with fb := fb } : State).RosterBut doubt := h.same rfl

theorem frameDone (h : s.RosterBut noDoubt) (slot : Nat) (f : TxFrame) : (s.frameDone slot f).RosterBut noDoubt := by
  have hsent := (((h.staging { s.fb with staging := stagingSent s.fb.staging }).itemsSent f.items).setFailures slot
    0).endFrame (.completed f.releases)
  unfold State.frameDone
  dsimp only
  split
  · exact hsent.releaseOwn slot
  · exact hsent

theorem frameBroken (h : s.RosterBut noDoubt) (slot : Nat) (f : TxFrame) : (s.frameBroken slot f).RosterBut noDoubt := by
  have hfailed := (h.staging { s.fb with staging := stagingKept s.fb.staging }).itemsFailed f.items
  unfold State.frameBroken
  dsimp only
  split
  · exact ((hfailed.setFailures _ _).counters _).endFrame _
  · exact (hfailed.counters _).endFrame _

theorem frameBeaten (h : s.RosterBut noDoubt) (slot : Nat) (f : TxFrame) : (s.frameBeaten slot f).RosterBut noDoubt := by
  have hfailed := ((h.staging { s.fb with staging := stagingKept s.fb.staging }).itemsFailed f.items).endFrame
    .arbitrationLost
  exact (hfailed.line _).loseOwn slot

/-! ## The judgement of a slot -/

theorem recordClaim (h : s.RosterBut noDoubt) (r : Nat) (c : Station) : (s.recordClaim r c).RosterBut noDoubt := by
  have hchecked : ∀ u : State, u.RosterBut noDoubt → (if c = s.self then u.checkCounts else u).RosterBut noDoubt :=
    fun u hu => by
      split
      · exact hu.checkCounts
      · exact hu
  unfold State.recordClaim
  dsimp only
  split
  · exact h
  · refine hchecked _ ?_
    cases hv : s.st.view r with
    | free => exact h.putOwn (by rw [hv]; nofun) nofun
    | claimed => exact h.putOwn (by rw [hv]; nofun) nofun
    | held y n =>
      dsimp only
      split
      · next hy => exact h.putOwn (fun y' n' hy' => by rw [hv] at hy'; cases hy'; exact hy) nofun
      · exact h.putLose hv (fun _ _ => rfl) r _

theorem touch (h : s.RosterBut doubt) (z : Station) (cycle : Cycle) :
    ({ s with st := s.st.touch z cycle } : State).RosterBut doubt where
  ascending := by
    have hasc : (s.st.touch z cycle).present.Pairwise (· < ·) := by
      rw [SlotTable.touch_present]
      exact List.pairwise_map.2 h.ascending
    exact List.pairwise_map.1 hasc
  stranger := by
    rw [SlotTable.touch_present]
    exact h.stranger
  mirror := by
    rw [SlotTable.touch_present]
    exact h.mirror
  expects := by
    rw [SlotTable.touch_present]
    exact h.expects
  entries := h.entries
  configured := h.configured
  configuring := h.configuring
  inCycle := h.inCycle
  finding := h.finding

theorem applyClaim (h : s.RosterBut noDoubt) (r c : Nat) : (s.applyClaim r c).RosterBut noDoubt := by
  unfold State.applyClaim
  extract_lets t
  have ht : t.RosterBut noDoubt := by
    simp only [t]
    split
    · exact h.recordClaim _ _
    · exact h
  split
  · exact ht.touch _ _
  · exact ht

/-- R37: a peer whose slots are in doubt and which holds one joins. -/
theorem addPeer (h : s.RosterBut (· = z)) (hz : z ≠ s.self) (hp : ¬(s.st.peer z).isSome = true)
    (hheld : s.st.heldSlots z ≠ []) (cycle : Cycle) : ({ s with st := s.st.addPeer z cycle } : State).RosterBut noDoubt := by
  have hmem : ∀ y, y ∈ (s.st.addPeer z cycle).present ↔ y = z ∨ y ∈ s.st.present := fun y => by
    simp only [SlotTable.present, SlotTable.addPeer, List.mem_map, mem_insertPeer, or_and_right, exists_or,
      exists_eq_left]
    exact or_congr_left eq_comm
  exact {
    h with
    ascending := insertPeer_ascending h.ascending fun q hq hqz =>
      hp (SlotTable.peer_isSome.2 ⟨q, hq, hqz⟩)
    stranger := fun hs => ((hmem _).1 hs).elim (fun hs => hz hs.symm) h.stranger
    mirror := fun y hy _ => by
      rw [hmem y]
      by_cases hyz : y = z
      · subst hyz
        exact iff_of_true (.inl rfl) hheld
      · rw [or_iff_right hyz]
        exact h.mirror y hy hyz
    expects := fun e he d hd =>
      ⟨(h.expects e he d hd).1, fun y hy hu => (hmem y).2 (.inr ((h.expects e he d hd).2 y hy hu))⟩ }

/-- R36, R37: the station whose slots are in doubt is on the roster after it was heard. -/
theorem greet {gone : State × List EventRecord} (h : gone.1.RosterBut (· = z)) (hz : z ≠ gone.1.self)
    (hheld : gone.1.st.heldSlots z ≠ []) (cycle : Cycle) (slot : Nat) :
    (State.greet cycle slot z gone).RosterBut noDoubt := by
  by_cases hp : (gone.1.st.peer z).isSome = true
  · rw [State.greet_known hp]
    have hsettled := h.settled fun y hy _ => by
      subst hy
      exact iff_of_true (SlotTable.mem_present.2 hp) hheld
    exact (hsettled.touch z cycle).offers _
  · rw [State.greet_new hp]
    exact (h.addPeer hz hp hheld cycle).offersUnordered _ _

theorem seeOwner (h : s.RosterBut noDoubt) (hz : z ≠ s.self) (hslot : 1 ≤ slot) (hlen : slot ≤ s.st.entries.length) :
    (s.seeOwner slot z).RosterBut noDoubt := by
  have hputEq := SlotTable.put_eq (t := s.st) hslot { view := .held z 0, failures := 0 }
  obtain ⟨hown, hother, hneither⟩ := State.seeOwner_eq (s := s) (z := z) hslot
  rw [← hputEq] at hown hneither
  simp only [← hputEq] at hother
  have hheld : (s.st.put slot { view := .held z 0, failures := 0 }).heldSlots z ≠ [] :=
    SlotTable.heldSlots_put_self (by simp [SlotView.heldBy]) hslot hlen
  have hview : ∀ y, y ≠ z → (SlotView.held z 0).heldBy y = false := fun y hy => by
    simpa [SlotView.heldBy] using hy.symm
  by_cases ho : (s.st.view slot).owner = some s.self
  · rw [hown ho]
    have hput : ({ s with st := s.st.put slot { view := .held z 0, failures := 0 } } : State).RosterBut (· = z) :=
      h.put slot _ fun y hy hyz => ⟨id, by
        rw [hview y hyz]
        cases hv : s.st.view slot with
        | free | claimed => rfl
        | held x n => simpa [SlotView.heldBy, eq_self_of_owner ho hv] using hy.symm⟩
    refine hput.checkCounts.greet ?_ ?_ _ _
    · rw [(State.Shifts.checkCounts _).self]
      exact hz
    · rw [State.checkCounts_st]
      exact hheld
  · by_cases hpeer : ∃ y n, s.st.view slot = .held y n ∧ y ≠ z ∧ y ≠ s.self
    · obtain ⟨y, n, hv, hyz, hy⟩ := hpeer
      rw [hother y n hv hyz hy]
      have hput : ({ s with st := s.st.put slot { view := .held z 0, failures := 0 } } : State).RosterBut
          fun x => x = z ∨ x = y :=
        h.put slot _ fun x hx hd => ⟨id, by
          rw [hview x fun hxz => hd (.inl hxz), hv]
          simpa [SlotView.heldBy] using fun hxy : y = x => hd (.inr hxy.symm)⟩
      have hgone := hput.peerGone (y := y) (fun hh => ?_) slot .displaced
      · refine (hgone.weaken ?_).greet ?_ ?_ _ _
        · exact fun x hx => hx.1.resolve_right hx.2
        · rw [State.self, (State.peerGone_frame ..).1]
          exact hz
        · rw [SlotTable.heldSlots, State.peerGone_entries]
          exact hheld
      · rw [SlotTable.put_present]
        exact .inr ((h.mirror y hy id).2 (SlotTable.heldSlots_of_put (hview y hyz) hh))
    · rw [hneither ho hpeer]
      have hput : ({ s with st := s.st.put slot { view := .held z 0, failures := 0 } } : State).RosterBut (· = z) :=
        h.put slot _ fun y hy hyz => ⟨id, by
          rw [hview y hyz]
          cases hv : s.st.view slot with
          | free | claimed => rfl
          | held x n =>
            have hx : x = z := by
              by_contra hxz
              refine hpeer ⟨x, n, hv, hxz, fun hx => ho ?_⟩
              rw [hv, hx]
              rfl
            simpa [SlotView.heldBy, hx] using Ne.symm hyz⟩
      exact hput.greet hz hheld _ _

theorem seeSilence (h : s.RosterBut noDoubt) (slot : Nat) : (s.seeSilence slot).RosterBut noDoubt := by
  unfold State.seeSilence
  cases hv : s.st.view slot with
  | free => exact h
  | claimed c k =>
    have hfree := h.putOwn (slot := slot) (e := .free) (by rw [hv]; nofun) nofun
    dsimp only
    split
    · split
      · exact hfree.checkCounts
      · exact hfree
    · exact h
  | held y n =>
    dsimp only
    split
    · exact h.putSame slot _ fun z _ => by rw [hv]; rfl
    · split
      · next hy => exact (h.putFree fun y' n' hy' => by rw [hv] at hy'; cases hy'; exact hy).checkCounts
      · exact h.putLose hv (fun _ _ => rfl) slot _

theorem applyRelease (h : s.RosterBut noDoubt) (z : Station) (r : Nat) : (State.applyRelease z s r).RosterBut noDoubt := by
  unfold State.applyRelease
  cases hv : s.st.view r with
  | free => exact h
  | claimed o k =>
    dsimp only
    split
    · exact h.putOwn (by rw [hv]; nofun) nofun
    · exact h
  | held o n =>
    dsimp only
    split
    · next ho => exact ho ▸ h.putLose hv (fun _ _ => rfl) r _
    · exact h

theorem judgeHeard (h : s.RosterBut noDoubt) (hslot : s.ct.slotIndex = some slot) :
    (s.judgeHeard slot).RosterBut noDoubt := by
  unfold State.judgeHeard
  split
  · exact h.applyClaim _ _
  · next z hf =>
    obtain ⟨hz, hnot⟩ := h.finding z hf
    have hpos : slot ≠ 0 := fun h0 => hnot (h0 ▸ hslot)
    have hlen := h.entries
    have hlt := h.inCycle slot hslot
    rw [if_neg fun hc => by simp [(h.configuring hc).2] at hf] at hlen
    exact List.foldlRecOn _ _ (h.seeOwner hz (by omega) (by omega)) fun _ ht r _ => ht.applyRelease z r
  · exact h.seeSilence _
  · exact h.seeSilence _

theorem judgeCompleted (h : s.RosterBut noDoubt) (slot : Nat) : (s.judgeCompleted slot).RosterBut noDoubt := by
  unfold State.judgeCompleted
  cases hv : s.st.view slot with
  | free => exact h
  | held y n =>
    dsimp only
    split
    · exact h.putSame slot _ fun z _ => by rw [hv]; rfl
    · exact h
  | claimed c k =>
    dsimp only
    split
    · next hc =>
      have hput := h.putOwn (slot := slot) (e := { view := .held c 0, failures := 0 }) (by rw [hv]; nofun)
        fun y n hy => by cases hy; exact hc
      exact (hput.offers [_]).checkCounts
    · exact h

theorem judgeBroken (h : s.RosterBut noDoubt) (slot : Nat) : (s.judgeBroken slot).RosterBut noDoubt := by
  unfold State.judgeBroken
  cases hv : s.st.view slot with
  | free => exact h
  | held y n =>
    dsimp only
    split
    · next hy =>
      split
      · have hput := h.putOwn (slot := slot) (e := .free) (fun y' n' hy' => by rw [hv] at hy'; cases hy'; exact hy) nofun
        exact (hput.offers [_]).checkCounts
      · exact h.putSame slot _ fun z _ => by rw [hv]; rfl
    · exact h
  | claimed c k =>
    dsimp only
    split
    · exact (h.putFree (by rw [hv]; nofun)).checkCounts
    · exact h

theorem judge (h : s.RosterBut noDoubt) : s.judge.RosterBut noDoubt := by
  cases hslot : s.ct.slotIndex with
  | none =>
    unfold State.judge
    rw [hslot]
    exact h
  | some slot =>
    have hverdict : (s.verdict slot).RosterBut noDoubt := by
      unfold State.verdict
      split
      · exact h.applyClaim _ _
      · split
        · exact h
        · exact h.judgeCompleted slot
      · exact h.judgeBroken slot
      · exact h.judgeHeard hslot
      · exact h.judgeHeard hslot
    rw [State.judge_eq hslot]
    exact hverdict.same rfl

theorem judgeLate (h : s.RosterBut noDoubt) : s.judgeLate.RosterBut noDoubt := by
  unfold State.judgeLate
  split
  · exact h.judge
  · exact h

/-! ## Reception -/

theorem stage (h : s.RosterBut doubt) (id : CueId) (v : Verdict) : (s.stage id v).RosterBut doubt :=
  h.same (by simp [State.rosterView])

theorem dispatch (h : s.RosterBut doubt) (z : Station) (item : LineItem) : (State.dispatch z s item).RosterBut doubt := by
  cases item with
  | cue serial retry lead contents => exact ((h.cq _).offers _).stage _ _
  | cancel serial => exact (h.cq _).stage _ _
  | ack originator serial verdict =>
    unfold State.dispatch
    dsimp only
    split
    · exact h.takeAck _ _ _
    · exact h
  | release slot => exact h.same rfl

theorem takeFrame (h : s.RosterBut doubt) (z : Station) (bs : List Byte) : (s.takeFrame z bs).RosterBut doubt := by
  have hitems : ∀ items : List LineItem, (items.foldl (State.dispatch z) s).RosterBut doubt := fun items =>
    List.foldlRecOn items _ h fun _ ht item _ => ht.dispatch z item
  unfold State.takeFrame
  split
  · dsimp only
    split
    · exact (hitems _).counters _
    · exact hitems _
  · exact h.counters _

/-- R133, R134: a finding noted where cycles run. -/
theorem note (h : s.RosterBut doubt) (hs : s.sc.state ≠ .config) {f : Finding}
    (hf : ∀ z, f = .slotFrame z → z ≠ s.self ∧ s.ct.slotIndex ≠ some 0) : (s.note f).RosterBut doubt :=
  (h.report (slot := { s.slot with finding := some f }) (ct := s.ct) (.inr hs)
    (fun z hz => hf z (Option.some.inj hz)) h.inCycle).line _

theorem noteInvalid (h : s.RosterBut doubt) (hs : s.sc.state ≠ .config) : (s.note .invalid).RosterBut doubt :=
  h.note hs nofun

theorem noteClaim (h : s.RosterBut doubt) (hs : s.sc.state ≠ .config) (r c : Byte) :
    (s.note (.claim r c)).RosterBut doubt :=
  h.note hs nofun

theorem frameLost (h : s.RosterBut noDoubt) (hs : s.sc.state ≠ .config) : s.frameLost.RosterBut noDoubt :=
  (h.countFormat.noteInvalid hs).judgeLate

/-- R34: the table, the outbox and the slot report are cleared. -/
theorem cleared (h : s.RosterBut doubt) (hs : s.sc.state ≠ .config) (hstate : t.sc.state ≠ .config)
    (himage : t.sc.image = s.sc.image) (hst : t.st = s.st.clear) (hob : t.ob.entries = [])
    (hfinding : t.slot.finding = none) (hslot : ∀ k, t.ct.slotIndex = some k → k < s.slots) : t.RosterBut noDoubt := by
  have hslots : t.slots = s.slots := by unfold State.slots; rw [himage]
  have hheld : ∀ z, t.st.heldSlots z = [] := fun z => by
    rw [hst]
    simp only [SlotTable.heldSlots, SlotTable.clear, List.map_const']
    exact slotsWhere_freeEntries rfl ..
  have hroster : t.st.roster = [] := by rw [hst]; rfl
  exact {
    ascending := by rw [hroster]; exact .nil
    stranger := by rw [SlotTable.present, hroster]; exact List.not_mem_nil
    mirror := fun z _ _ => by rw [SlotTable.present, hroster, hheld]; simp
    expects := by rw [hob]; nofun
    entries := by
      have hlen := h.entries
      rw [if_neg hs] at hlen
      rw [if_neg hstate, hst, hslots, ← hlen]
      exact List.length_map ..
    configured := fun _ => himage ▸ h.configured hs
    configuring := fun hc => absurd hc hstate
    inCycle := hslots ▸ hslot
    finding := fun z hz => by simp [hfinding] at hz }

theorem enterHalted (h : s.RosterBut doubt) (hs : s.sc.state ≠ .config) (reason : FaultReason) :
    (s.enterHalted reason).RosterBut noDoubt :=
  h.cleared hs (by simp [State.enterHalted, State.standOff, State.dropWork]) rfl rfl rfl rfl nofun

theorem enterLineFault (h : s.RosterBut doubt) (hs : s.sc.state ≠ .config) (reason : FaultReason) :
    (s.enterLineFault reason).RosterBut noDoubt :=
  h.cleared hs (by simp [State.enterLineFault, State.standOff, State.dropWork]) rfl rfl rfl rfl nofun

theorem resync (h : s.RosterBut doubt) (hs : s.sc.state ≠ .config) (reason : Reason) (own : EventRecord) :
    (s.resync reason own).RosterBut noDoubt :=
  h.cleared hs (by simp [State.resync, State.dropWork]) rfl rfl rfl rfl h.inCycle

/-- R134: only a frame outside slot 0 is found a slot frame. -/
theorem slot_ne_zero_of_assess {slots payload : Nat} {bs : List Byte} {framingError : Bool}
    (h : assess slot slots payload bs framingError = .ok (.slotFrame z)) : slot ≠ 0 := by
  rintro rfl
  have hfive : expectedBytes 0 bs = some 5 := rfl
  unfold assess at h
  simp only [hfive, if_true] at h
  split_ifs at h
  cases h

theorem takeValid (h : s.RosterBut noDoubt) (hs : s.sc.state ≠ .config) {f : Finding} (bs : List Byte)
    (hf : ∀ z, f = .slotFrame z → s.ct.slotIndex ≠ some 0) : (s.takeValid f bs).RosterBut noDoubt := by
  unfold State.takeValid
  split
  · split
    · exact h.enterHalted hs _
    · have hclaim : ∀ r, (s.takeClaim r).RosterBut noDoubt := fun r => h.same (by simp [State.rosterView])
      exact ((hclaim _).noteClaim (by simpa using hs) _ _).judgeLate
  · split
    · split
      · exact h.enterHalted hs _
      · exact h
    · next z hz =>
      have hnote := h.note hs (f := .slotFrame z) fun y hy => by
        cases hy
        exact ⟨hz, hf z rfl⟩
      exact (hnote.takeFrame z bs).judgeLate
  · exact h

theorem receive (h : s.RosterBut noDoubt) (hs : s.sc.state ≠ .config) (bs : List Byte) (framingError : Bool) :
    (s.receive bs framingError).RosterBut noDoubt := by
  unfold State.receive
  split
  · exact h
  · next slot hslot =>
    split
    · next f hf =>
      refine h.takeValid hs bs fun z hz h0 => ?_
      rw [hslot] at h0
      exact slot_ne_zero_of_assess (hz ▸ hf) (Option.some.inj h0)
    · exact (h.countCrc.noteInvalid hs).judgeLate
    · have hswallow : ({ s with slot := { s.slot with swallow := true } } : State).RosterBut noDoubt := h.same rfl
      split
      · exact hswallow.frameLost hs
      · exact h.frameLost hs

/-! ## The openings and the slots -/

/-- CT leaves its slots. -/
theorem timer (h : s.RosterBut doubt) {ct : CycleTimer} (hct : ct.slotIndex = none) :
    ({ s with ct := ct } : State).RosterBut doubt :=
  { h with
    inCycle := fun k hk => by simp [hct] at hk
    finding := fun z hz => ⟨(h.finding z hz).1, by simp [hct]⟩ }

/-- CT leaves its slots and the report is blank. -/
theorem blank (h : s.RosterBut doubt) {ct : CycleTimer} (hct : ct.slotIndex = none) :
    ({ s with slot := .blank, ct := ct } : State).RosterBut doubt :=
  h.report (.inl rfl) nofun fun k hk => by simp [hct] at hk

theorem learnAt (h : s.RosterBut doubt) (role : OpeningRole) (backward : Bool) :
    (s.learnAt role backward).RosterBut doubt := by
  unfold State.learnAt
  split
  · next hs => exact h.change (by simp [hs]) (by simp) _
  · next hs =>
    split
    · refine h.change (by simp [hs]) ?_ _
      split <;> simp
    · exact h
  all_goals exact h

theorem finishOpening (h : s.RosterBut doubt) (o : Opening) : (s.finishOpening o).RosterBut doubt := by
  unfold State.finishOpening
  extract_lets deadlines ob t u v
  have hswept : (s.sweepOutbox (OutEntry.atDeadline o.number)).RosterBut doubt := h.sweepKeeping fun e => by
    rw [State.Leads.atDeadline_fst]
  have ht : t.RosterBut doubt := (hswept.blank (ct := s.ct.settle o.number) rfl).same rfl
  have hv : v.RosterBut doubt := by
    simp only [v]
    split
    · exact (ht.offersUnordered _ _).counters _
    · exact ht.offersUnordered _ _
  exact hv.learnAt _ _

theorem endShape (h : s.RosterBut noDoubt) (hs : s.sc.state ≠ .config) (o : Opening) (shape : Byte) :
    (s.endShape o shape).RosterBut noDoubt := by
  unfold State.endShape
  split
  · have hcounted : (if o.numberDamaged then s.countDamagedOpening else s).RosterBut noDoubt := by
      split
      · exact h.counters _
      · exact h
    refine hcounted.enterHalted ?_ _
    split <;> exact hs
  · split
    · exact (h.resync hs _ _).finishOpening o
    · exact h.finishOpening o

theorem damageOpening (h : s.RosterBut noDoubt) : s.damageOpening.RosterBut noDoubt := by
  have hagain : s.listenAgain.RosterBut noDoubt := (h.timer (ct := s.ct.wait s.listenTime) rfl).counters _
  unfold State.damageOpening
  split
  · split
    · exact h
    · split
      · exact h
      · split
        · exact hagain
        · exact h.same rfl
      · split
        · exact hagain
        · exact h.same rfl
  · exact h

theorem recognizePulse (h : s.RosterBut noDoubt) (run : Nat) (inWindow : Bool) :
    (s.recognizePulse run inWindow).RosterBut noDoubt := by
  unfold State.recognizePulse
  split
  · exact h
  · split
    · exact (h.timer (ct := s.ct.observe run) rfl).line _
    · split
      · next hstray =>
        have hrun : s.sc.state.cyclesRun = true := (Bool.and_eq_true_iff.1 hstray.1).1
        have hs : s.sc.state ≠ .config := fun hc => by simp [hc, StationState.cyclesRun] at hrun
        exact ((h.resync hs .stray _).timer (ct := s.ct.observe run) rfl).line _
      · split
        · exact h.line _
        · exact h

theorem beginOpening (h : s.RosterBut noDoubt) (position : Nat) : (s.beginOpening position).RosterBut noDoubt :=
  (h.blank (ct := s.ct.participate (s.ct.cycle + 1) position) rfl).line _

theorem fixSlotFrame (h : s.RosterBut doubt) (slot : Nat) : (s.fixSlotFrame slot).RosterBut doubt :=
  { h with
    expects := fun x hx => by
      obtain ⟨e, he, rfl⟩ := List.mem_map.1 hx
      refine (h.expects e he).of_send ?_
      unfold OutEntry.placed
      split <;> rfl
    configuring := fun hs => by simpa [State.fixSlotFrame] using h.configuring hs }

theorem claimPolicy (h : s.RosterBut doubt) : s.claimPolicy.1.RosterBut doubt := by
  refine h.same ?_
  unfold State.claimPolicy
  dsimp only
  split_ifs <;> (try split) <;> rfl

theorem beginSlot (h : s.RosterBut noDoubt) (hs : s.sc.state ≠ .config) (hlt : slot < s.slots) :
    (s.beginSlot slot).RosterBut noDoubt := by
  unfold State.beginSlot
  extract_lets timer blank t work claim reported
  have ht : t.RosterBut noDoubt :=
    (h.report (slot := t.slot) (ct := t.ct) (.inr hs)
      (fun z hz => by simp only [t] at hz; split at hz <;> cases hz) fun k hk => by cases hk; exact hlt).line _
  have hwork : work.1.RosterBut noDoubt := ht.same rfl
  split
  · exact hwork.claimPolicy.offersUnordered _ _
  · split
    · exact (hwork.offers _).fixSlotFrame _
    · exact hwork.offers _

theorem endSlot (h : s.RosterBut noDoubt) (slot : Nat) (late : Option (List Byte)) :
    (s.endSlot slot late).RosterBut noDoubt := by
  have hmoved : ∀ lc : LineController, ({ s with
      ct := { s.ct with position := some (s.slotStart slot + frameRegion s.payload) }, lc := lc } : State).RosterBut
      noDoubt := fun lc => h.same rfl
  unfold State.endSlot
  dsimp only
  split
  · split
    · exact h.same rfl
    · exact (hmoved _).judge
  · exact (hmoved _).judge

/-! ## The host's commands and the triggers -/

/-- R86 to R90: an entry created, not yet sent. -/
theorem created (h : s.RosterBut noDoubt) (hs : s.sc.state ≠ .config) {ob : Outbox}
    (hob : ∀ e ∈ ob.entries, e.send = none ∨ ∃ x ∈ s.ob.entries, e.send = x.send) :
    ({ s with ob := ob } : State).RosterBut noDoubt :=
  { h with
    expects := fun e he => by
      rcases hob e he with hn | ⟨x, hx, hsend⟩
      · intro d hd
        rw [hn] at hd
        cases hd
      · exact (h.expects x hx).of_send hsend
    configuring := fun hc => absurd hc hs }

theorem mem_submit {o : Outbox} {t : CueTemplate} {source : Source} {e : OutEntry} (he : e ∈ (o.submit t source).entries) :
    e.send = none ∨ ∃ x ∈ o.entries, e.send = x.send := by
  rcases List.mem_append.1 he with he | he
  · exact .inr ⟨e, he, rfl⟩
  · rw [List.mem_singleton.1 he]
    exact .inl rfl

theorem mem_addCancel {o : Outbox} {n : Serial} {self : Option Verdict} {e : OutEntry}
    (he : e ∈ (o.addCancel n self).entries) : e.send = none ∨ ∃ x ∈ o.entries, e.send = x.send := by
  rcases List.mem_append.1 he with he | he
  · exact .inr ⟨e, he, rfl⟩
  · rw [List.mem_singleton.1 he]
    exact .inl rfl

theorem mem_pend {o : Outbox} {n : Serial} {e : OutEntry} (he : e ∈ (o.pend n).entries) :
    e.send = none ∨ ∃ x ∈ o.entries, e.send = x.send := by
  refine (mem_addCancel he).imp_right fun ⟨x, hx, hsend⟩ => ?_
  obtain ⟨y, hy, rfl⟩ := List.mem_map.1 hx
  refine ⟨y, hy, hsend.trans ?_⟩
  split
  · split <;> rfl
  · rfl

/-- In CONFIG there is nothing to cancel. -/
theorem cancelSerial_config (hob : s.ob.entries = []) (hs : s.sc.state = .config) (n : Serial) :
    (s.cancelSerial n).2 = s := by
  simp [State.cancelSerial, Outbox.find, Outbox.cancelOpen, hob, hs, StationState.talking]

theorem cancelSerial (h : s.RosterBut noDoubt) (n : Serial) : (s.cancelSerial n).2.RosterBut noDoubt := by
  by_cases hs : s.sc.state = .config
  · rw [cancelSerial_config (h.configuring hs).1 hs]
    exact h
  · rcases s.cancelSerial_cases n with heq | heq | ⟨-, -, heq | ⟨-, heq⟩⟩ <;> rw [heq]
    · exact h.sweepKeeping (onEntry_send fun _ => rfl)
    · exact h
    · exact h.created hs fun _ => mem_pend
    · unfold State.cancelSent
      dsimp only
      split
      · exact (h.created hs fun _ => mem_addCancel).cq _
      · exact h.created hs fun _ => mem_addCancel

theorem setTrigger (h : s.RosterBut doubt) (i : TrigInput) (x : TriggerState) : (s.setTrigger i x).RosterBut doubt := by
  cases i <;> exact h.same rfl

theorem ne_config_of_talking (h : s.sc.state.talking = true) : s.sc.state ≠ .config := fun hs => by
  rw [hs] at h
  cases h

theorem present (h : s.RosterBut noDoubt) (i : TrigInput) (edge : Edge) (x : CueTemplate) :
    (s.present i edge x).RosterBut noDoubt := by
  unfold State.present
  split
  · exact h.offers [_]
  · next hnone =>
    have htalk : s.sc.state.talking = true := by
      unfold State.dropReason at hnone
      split_ifs at hnone with h1
      simpa using h1
    exact ((h.created (ne_config_of_talking htalk) fun _ => mem_submit).setTrigger i _).offers [_]

theorem edge (h : s.RosterBut noDoubt) (i : TrigInput) : (s.edge i).RosterBut noDoubt := by
  unfold State.edge
  dsimp only
  split
  · exact h.setTrigger i _
  · split
    · exact (h.setTrigger i _).present i _ _
    · exact h.setTrigger i _

/-- R19: in CONFIG the table, the roster and the outbox are empty. -/
theorem config_empty (h : s.RosterBut noDoubt) (hs : s.sc.state = .config) :
    s.st.entries = [] ∧ s.st.roster = [] ∧ s.ob.entries = [] ∧ s.slot.finding = none := by
  have hentries : s.st.entries = [] := by
    have hlen := h.entries
    rw [if_pos hs] at hlen
    exact List.eq_nil_of_length_eq_zero hlen
  have hroster : s.st.roster = [] := by
    refine List.eq_nil_iff_forall_not_mem.2 fun p hp => ?_
    have hmem : p.station ∈ s.st.present := List.mem_map_of_mem hp
    by_cases hself : p.station = s.self
    · exact h.stranger (hself ▸ hmem)
    · refine (h.mirror _ hself id).1 hmem ?_
      rw [SlotTable.heldSlots, hentries]
      rfl
  exact ⟨hentries, hroster, h.configuring hs⟩

/-- The law where the table shows nobody. -/
theorem ofEmpty (hheld : ∀ z, s.st.heldSlots z = []) (hroster : s.st.roster = []) (hob : s.ob.entries = [])
    (hfinding : s.slot.finding = none) (hslot : s.ct.slotIndex = none)
    (hentries : s.st.entries.length = if s.sc.state = .config then 0 else s.slots - 1)
    (hconfigured : s.sc.state ≠ .config → s.sc.image.isSome = true) : s.RosterBut noDoubt where
  ascending := by rw [hroster]; exact .nil
  stranger := by rw [SlotTable.present, hroster]; exact List.not_mem_nil
  mirror z _ _ := by rw [SlotTable.present, hroster, hheld]; simp
  expects := by rw [hob]; nofun
  entries := hentries
  configured := hconfigured
  configuring _ := ⟨hob, hfinding⟩
  inCycle k hk := by simp [hslot] at hk
  finding z hz := by simp [hfinding] at hz

end State.RosterBut

/-! ## Every row, every step -/

theorem StationState.ne_config_of_cyclesRun {a : StationState} (h : a.cyclesRun = true) : a ≠ .config := fun ha => by
  rw [ha] at h
  cases h

theorem StationState.ne_config_of_onLine {a : StationState} (h : a.onLine = true) : a ≠ .config := fun ha => by
  rw [ha] at h
  cases h

/-- R35, R99: every row keeps the roster. -/
theorem rowEffects_roster (c : Instr) :
    RowEffects c fun s t => s.TimerLawful → s.RosterBut noDoubt → t.RosterBut noDoubt where
  reset _ s reason _ _ := .ofEmpty (fun _ => rfl) rfl rfl rfl rfl rfl (fun h => absurd rfl h)
  configure _ s p im hc _ ht h := by
    obtain ⟨hentries, hroster, hob, hfinding⟩ := h.config_empty hc
    refine .ofEmpty (fun z => ?_) hroster hob hfinding ?_ ?_ fun hs => absurd hc hs
    · exact congrArg (slotsWhere _ 1) hentries
    · refine Option.eq_none_iff_forall_ne_some.2 fun k hk => ?_
      have hphase := (ht.slotIndex k hk).1
      rw [(ht.stopped (.inl hc)).1] at hphase
      cases hphase
    · exact (congrArg List.length hentries).trans (if_pos hc).symm
  start s im hc him _ h := by
    obtain ⟨-, hroster, hob, hfinding⟩ := h.config_empty hc
    have hslots : (s.startUp im).slots = im.slots.toNat := by
      have himage : (s.startUp im).sc.image = some im := by simp [State.startUp, State.changeState, State.offer, him]
      unfold State.slots
      rw [himage]
      rfl
    refine .ofEmpty (fun z => slotsWhere_freeEntries rfl ..) hroster hob hfinding rfl ?_ fun _ => ?_
    · rw [hslots]
      exact List.length_replicate
    · simp [State.startUp, State.changeState, State.offer, him]
  leave s ht _ h := by
    have hs := State.RosterBut.ne_config_of_talking ht
    have hleaving := (h.state (sc := { s.sc with talkIntent := false }) rfl Iff.rfl).change hs (after := .leaving) (by simp) .leave
    exact (hleaving.sweepKeeping fun _ => rfl).checkCounts
  join s hq _ h := (h.state (sc := { s.sc with talkIntent := true }) rfl Iff.rfl).change (by simp [hq]) (by simp) _
  submit _ _ _ ht _ _ _ h := h.created (State.RosterBut.ne_config_of_talking ht) fun _ => State.RosterBut.mem_submit
  cancel _ n _ h := h.cancelSerial n
  takeEvents _ _ _ h := h.same rfl
  zeroCounters _ _ h := h.same rfl
  drive _ _ _ _ _ _ _ h := h.same rfl
  bind _ _ i _ _ _ _ h := h.setTrigger i _
  unbind _ i _ h := h.setTrigger i _
  edge _ i _ h := h.edge i
  period _ _ h := h.same rfl
  expiry s _ _ _ h := (h.timer (ct := s.ct.participate s.ct.selfProposal 0) rfl).line _
  opens _ _ _ h := h.beginOpening 0
  deferred _ hl _ _ _ h :=
    (h.countFormat.noteInvalid (StationState.ne_config_of_cyclesRun (State.listens_cyclesRun hl))).judge.beginOpening 10
  pulseRelease _ _ _ _ _ _ _ h := h.same rfl
  noEcho _ _ _ hline _ _ _ _ h := (h.enterLineFault (StationState.ne_config_of_onLine hline) _).line _
  pulse _ run inWindow _ h := h.recognizePulse run inWindow
  numberLoss _ _ _ _ _ _ _ h := h.same rfl
  numberEnd _ _ _ _ _ _ _ _ h := h.same rfl
  shapeEnd _ o shape _ hphase _ ht h := h.endShape (fun hs => by
    rcases ht.states_of_opening hphase with hl | hrun
    · simp [hs] at hl
    · simp [hs, StationState.cyclesRun] at hrun) o shape
  damage _ _ h := h.damageOpening
  slotBegin s slot hslot ht h := by
    obtain ⟨hrun, -, hlt⟩ := State.nextSlot_spec hslot
    refine h.beginSlot (StationState.ne_config_of_cyclesRun hrun) ?_
    rcases hlt with ⟨-, rfl⟩ | ⟨k, -, -, hlt, rfl⟩
    · exact State.slots_pos (ht.image_isSome (.inr hrun))
    · exact hlt
  slotEnd _ slot late _ _ _ _ _ _ h := h.endSlot slot late
  frameDone _ f slot _ _ _ h := h.frameDone slot f
  frameBroken _ f slot _ _ _ h := h.frameBroken slot f
  frameBeaten _ f slot _ _ _ h := h.frameBeaten slot f
  claimBeaten _ _ _ _ _ _ _ h := ((h.counters _).endFrame _).line _
  claimBroken _ _ _ _ _ _ h := (h.counters _).endFrame _
  claimDone _ _ _ _ _ _ h := h.endFrame _
  received _ bs framingError hl _ h :=
    h.receive (StationState.ne_config_of_cyclesRun (State.listens_cyclesRun hl)) bs framingError
  lostAhead _ _ _ h := h.same rfl
  frameLost _ hl _ h := h.frameLost (StationState.ne_config_of_cyclesRun (State.listens_cyclesRun hl))
  stray _ _ _ h := h.counters _
  stuck _ hline _ h := (h.enterLineFault (StationState.ne_config_of_onLine hline) _).line _
  stuckAgain _ _ _ h := (h.line _).offers [_]
  restored s hs _ h := by
    have hwait := ((h.state (sc := { s.sc with faultReason := none }) rfl Iff.rfl).timer
      (ct := s.ct.wait s.listenTime) rfl).line { s.lc with dominantRun := 0, recessiveRun := 64 }
    exact (hwait.change (after := .listening) (by simp [hs]) (by simp) .restored).offers [_]
  fallingEdge _ _ _ h := h.line _

/-- Settles O57: every row keeps the roster beside a lawful timer, and the bit time leaves it alone. -/
theorem stepKeepsRoster : Obligations.StepKeepsRoster := by
  intro s t hst ht hs
  rw [State.rosterLawful_iff] at hs ⊢
  unfold step at hst
  split at hst
  · cases hst
    exact hs.same rfl
  · exact (rowEffects_roster _).exec
      { refl := fun _ _ h => h
        before := fun _ _ _ h hc hr => h (hc.congr rfl rfl) (hr.same rfl)
        port := fun _ _ _ h hc hr => (h hc hr).same rfl
        hold := fun _ _ _ h hc hr => (h hc hr).same rfl
        pins := fun _ _ _ _ h hc hr => (h hc hr).same rfl } hst (ht.congr rfl rfl) (hs.same rfl)

end Sys2Proof.Machine
end

section
/-! PROOFS. The slots that this station holds or claims: how many the judgement of a slot can add, and their bound over every step. -/

namespace Sys2Proof.Machine

/-! ## The count of own slots (R19, R21) -/

theorem slotsWhere_length (p : SlotView → Bool) (first : Nat) (es : List SlotEntry) :
    (slotsWhere p first es).length = es.countP fun e => p e.view := by
  induction es generalizing first with
  | nil => rfl
  | cons e es ih =>
    unfold slotsWhere
    rw [List.countP_cons]
    split
    · rw [List.length_cons, ih]
    · rw [ih, Nat.add_zero]

/-- The slots that this station holds or claims. -/
def State.ownCount (s : State) : Nat := s.heldCount + s.claimedCount

/-- The entry is this station's. -/
def SlotEntry.isOf (z : Station) (e : SlotEntry) : Bool := e.view.owner == some z

theorem ownCount_eq (z : Station) (es : List SlotEntry) (first : Nat) :
    (slotsWhere (SlotView.heldBy z) first es).length + (slotsWhere (SlotView.claimedBy z) first es).length =
      es.countP (SlotEntry.isOf z) := by
  rw [slotsWhere_length, slotsWhere_length]
  induction es with
  | nil => rfl
  | cons e es ih =>
    have hone : (if e.view.heldBy z then 1 else 0) + (if e.view.claimedBy z then 1 else 0) =
        if e.isOf z then 1 else 0 := by
      unfold SlotEntry.isOf
      cases e.view <;> simp [SlotView.heldBy, SlotView.claimedBy, SlotView.owner]
    simp only [List.countP_cons]
    omega

theorem State.ownCount_eq (s : State) : s.ownCount = s.st.entries.countP (SlotEntry.isOf s.self) :=
  Machine.ownCount_eq ..

/-- An entry replaced adds at most itself, and nothing where it was this station's before or is not now. -/
theorem SlotTable.countP_put (t : SlotTable) (slot : Nat) (e : SlotEntry) (z : Station) :
    (t.put slot e).entries.countP (SlotEntry.isOf z) ≤ t.entries.countP (SlotEntry.isOf z) +
      if e.isOf z = true ∧ (t.view slot).owner ≠ some z then 1 else 0 := by
  by_cases hslot : slot = 0
  · simp [SlotTable.put, hslot]
  · rw [SlotTable.put_eq (Nat.one_le_iff_ne_zero.2 hslot)]
    by_cases hlen : slot - 1 < t.entries.length
    · have hentry := SlotTable.entry_of_getElem? (Nat.one_le_iff_ne_zero.2 hslot) (List.getElem?_eq_getElem hlen)
      have hle := List.boole_getElem_le_countP (p := SlotEntry.isOf z) hlen
      rw [List.countP_set hlen, SlotTable.view_of_entry hentry]
      by_cases he : e.isOf z = true <;> by_cases hb : (t.entries[slot - 1]).isOf z = true
      · simp only [he, hb, if_true] at hle ⊢
        omega
      · have hb' : t.entries[slot - 1].view.owner ≠ some z := by simpa [SlotEntry.isOf] using hb
        simp [he, hb, hb']
      · simp only [he, hb, Bool.false_eq_true, if_false]
        omega
      · simp [he, hb]
    · rw [List.set_eq_of_length_le (Nat.not_lt.1 hlen)]
      exact Nat.le_add_right ..

/-! ## What the judgement of a slot leaves (R20) -/

/-- The slot report and the frame in transmission stay, the station moves by count checks alone, and this station has
at most `n` slots more. -/
structure State.Cedes (n : Nat) (s t : State) : Prop where
  shifts : s.Shifts t
  slot : t.slot = s.slot
  transmission : t.fb.transmission = s.fb.transmission
  count : t.ownCount ≤ s.ownCount + n
  empty : s.st.entries = [] → t.st.entries = []

namespace State.Cedes

variable {s t u : State} {n m slot : Nat} {z : Station}

theorem refl (s : State) : s.Cedes 0 s := ⟨.of_sc rfl, rfl, rfl, Nat.le_refl _, id⟩

theorem trans (h : s.Cedes n t) (h' : t.Cedes m u) : s.Cedes (n + m) u where
  shifts := h.shifts.trans h'.shifts
  slot := h'.slot.trans h.slot
  transmission := h'.transmission.trans h.transmission
  count := by
    have := h.count
    have := h'.count
    omega
  empty he := h'.empty (h.empty he)

theorem mono (h : s.Cedes n t) (hn : n ≤ m) : s.Cedes m t :=
  { h with count := h.count.trans (Nat.add_le_add_left hn _) }

/-- What leaves the table and all that the relation speaks of. -/
theorem same (hsc : t.sc = s.sc) (hslot : t.slot = s.slot) (hfb : t.fb.transmission = s.fb.transmission)
    (hentries : t.st.entries = s.st.entries) : s.Cedes 0 t where
  shifts := .of_sc hsc
  slot := hslot
  transmission := hfb
  count := by
    rw [State.ownCount_eq, State.ownCount_eq, hentries, State.self, hsc]
    exact Nat.le_refl _
  empty he := hentries.trans he

theorem stays (h : s.Cedes n t) (hsc : u.sc = t.sc) (hslot : u.slot = t.slot)
    (hfb : u.fb.transmission = t.fb.transmission) (hentries : u.st.entries = t.st.entries) : s.Cedes n u :=
  h.trans (same hsc hslot hfb hentries)

theorem offersUnordered (h : s.Cedes n t) (xs ys : List EventRecord) : s.Cedes n (t.offersUnordered xs ys) :=
  h.stays (by simp) (by simp) (by simp) (by simp)

theorem checkCounts (s : State) : s.Cedes 0 s.checkCounts where
  shifts := .checkCounts s
  slot := by simp
  transmission := by
    unfold State.checkCounts
    split <;> (try split) <;> rfl
  count := by
    rw [State.ownCount_eq, State.ownCount_eq, State.checkCounts_st, (State.Shifts.checkCounts s).self]
    exact Nat.le_refl _
  empty he := by rwa [State.checkCounts_st]

theorem checked (h : s.Cedes n t) : s.Cedes n t.checkCounts := h.trans (checkCounts t)

theorem offers (h : s.Cedes n t) (rs : List EventRecord) : s.Cedes n (t.offers rs) := h.stays rfl rfl rfl rfl

/-- An entry replaced, by one of this station's where at least one more is allowed. -/
theorem gain (slot : Nat) (e : SlotEntry)
    (hn : e.view.owner = some s.self → (s.st.view slot).owner ≠ some s.self → 1 ≤ n) :
    s.Cedes n { s with st := s.st.put slot e } where
  shifts := .of_sc rfl
  slot := rfl
  transmission := rfl
  count := by
    rw [State.ownCount_eq, State.ownCount_eq]
    refine (s.st.countP_put slot e s.self).trans (Nat.add_le_add_left ?_ _)
    split
    · next ho => exact hn (by simpa [SlotEntry.isOf] using ho.1) ho.2
    · exact Nat.zero_le _
  empty he := List.eq_nil_of_length_eq_zero ((SlotTable.put_roster ..).2.2.trans (by rw [he]; rfl))

/-- An entry replaced by one that is not this station's, or was its before. -/
theorem put (slot : Nat) (e : SlotEntry) (he : e.view.owner = some s.self → (s.st.view slot).owner = some s.self) :
    s.Cedes 0 { s with st := s.st.put slot e } :=
  gain slot e fun ho hn => absurd (he ho) hn

theorem putFree (s : State) (slot : Nat) : s.Cedes 0 { s with st := s.st.put slot .free } := put slot .free nofun

theorem peerGone (s : State) (z : Station) (slot : Nat) (reason : LossReason) : s.Cedes 0 (s.peerGone z slot reason).1 :=
  same (State.peerGone_frame ..).1 (by simp) (by simp) (State.peerGone_entries ..)

theorem loseHeld (s : State) (z : Station) (slot : Nat) (reason : LossReason) : s.Cedes 0 (s.loseHeld z slot reason) :=
  (peerGone s z slot reason).offers _

theorem releaseOwn (s : State) (slot : Nat) : s.Cedes 0 (s.releaseOwn slot) := by
  unfold State.releaseOwn
  split
  · exact ((putFree s slot).offers [_]).checked
  · exact refl s

theorem loseOwn (s : State) (slot : Nat) : s.Cedes 0 (s.loseOwn slot) := by
  unfold State.loseOwn
  split
  · exact ((putFree s slot).offers [_]).checked
  · split
    · exact (putFree s slot).checked
    · exact refl s

theorem setFailures (s : State) (slot k : Nat) : s.Cedes 0 (s.setFailures slot k) := by
  unfold State.setFailures
  split
  · exact refl s
  · next e he => exact put slot _ fun ho => by rwa [SlotTable.view_of_entry he]

theorem recordClaim {c : Station} (hn : c = s.self → 1 ≤ n) (r : Nat) : s.Cedes n (s.recordClaim r c) := by
  unfold State.recordClaim
  extract_lets before t u
  have ht : s.Cedes n t := gain r _ fun ho _ => hn (Option.some.inj ho)
  have hu : s.Cedes n u := by
    simp only [u]
    clear_value before
    split
    · split
      · exact ht
      · exact ht.trans (loseHeld ..)
    · exact ht
    · exact ht
  split
  · exact (refl s).mono (Nat.zero_le _)
  · split
    · exact hu.checked
    · exact hu

theorem applyClaim {r c : Nat} (hn : 1 ≤ r → r < s.slots → BitVec.ofNat 5 c = s.self → 1 ≤ n) :
    s.Cedes n (s.applyClaim r c) := by
  unfold State.applyClaim
  extract_lets t
  have ht : s.Cedes n t := by
    simp only [t]
    split
    · next hr => exact recordClaim (hn hr.1 hr.2) r
    · exact (refl s).mono (Nat.zero_le _)
  split
  · exact ht.stays rfl rfl rfl rfl
  · exact ht

theorem seeOwner (hn : z = s.self → 1 ≤ n) (slot : Nat) : s.Cedes n (s.seeOwner slot z) := by
  unfold State.seeOwner
  extract_lets before put checked gone
  have hput : s.Cedes n put := gain slot _ fun ho _ => hn (Option.some.inj ho)
  have hchecked : s.Cedes n checked := by
    simp only [checked]
    split
    · exact hput.checked
    · exact hput
  have hgone : s.Cedes n gone.1 := by
    simp only [gone]
    clear_value before checked
    split
    · split
      · exact hchecked
      · exact hchecked.trans (peerGone ..)
    · exact hchecked
    · exact hchecked
  clear_value gone
  split
  · exact hgone.stays rfl rfl rfl rfl
  · exact (hgone.stays (u := { gone.1 with st := gone.1.st.addPeer z s.ct.cycle }) rfl rfl rfl rfl).offersUnordered _ _

theorem seeSilence (s : State) (slot : Nat) : s.Cedes 0 (s.seeSilence slot) := by
  unfold State.seeSilence
  cases hv : s.st.view slot with
  | free => exact refl s
  | claimed c k =>
    dsimp only
    split
    · split
      · exact (putFree s slot).checked
      · exact putFree s slot
    · exact refl s
  | held y k =>
    dsimp only
    split
    · exact put slot _ fun ho => by rw [hv]; exact ho
    · split
      · exact (putFree s slot).checked
      · exact (putFree s slot).trans (loseHeld ..)

theorem applyRelease (s : State) (z : Station) (r : Nat) : s.Cedes 0 (State.applyRelease z s r) := by
  unfold State.applyRelease
  split
  · exact refl s
  · split
    · exact putFree s r
    · exact refl s
  · split
    · exact (putFree s r).trans (loseHeld ..)
    · exact refl s

theorem judgeCompleted (s : State) (slot : Nat) : s.Cedes 0 (s.judgeCompleted slot) := by
  unfold State.judgeCompleted
  cases hv : s.st.view slot with
  | free => exact refl s
  | held y k =>
    dsimp only
    split
    · exact put slot _ fun ho => by rw [hv]; exact ho
    · exact refl s
  | claimed c k =>
    dsimp only
    split
    · exact ((put slot _ fun ho => by rw [hv]; exact ho).offers [_]).checked
    · exact refl s

theorem judgeBroken (s : State) (slot : Nat) : s.Cedes 0 (s.judgeBroken slot) := by
  unfold State.judgeBroken
  cases hv : s.st.view slot with
  | free => exact refl s
  | held y k =>
    dsimp only
    split
    · split
      · exact ((putFree s slot).offers [_]).checked
      · exact put slot _ fun ho => by rw [hv]; exact ho
    · exact refl s
  | claimed c k =>
    dsimp only
    split
    · exact (putFree s slot).checked
    · exact refl s

/-- A slot frame of a peer, and a claim of another station, take nothing. -/
theorem judgeHeard (hsender : ∀ z, s.slot.finding = some (.slotFrame z) → z = s.self → 1 ≤ n)
    (hclaimer : ∀ r c, s.slot.finding = some (.claim r c) → 1 ≤ r.toNat → r.toNat < s.slots →
      BitVec.ofNat 5 c.toNat = s.self → 1 ≤ n) (slot : Nat) : s.Cedes n (s.judgeHeard slot) := by
  unfold State.judgeHeard
  split
  · next r c hf => exact applyClaim (hclaimer r c hf)
  · next z hf =>
    exact List.foldlRecOn (motive := fun t => s.Cedes n t) _ _ (seeOwner (hsender z hf) slot) fun t ht r _ =>
      ht.trans (applyRelease t z r)
  · exact (seeSilence s slot).mono (Nat.zero_le _)
  · exact (seeSilence s slot).mono (Nat.zero_le _)

/-- R20: a judgement adds one slot at most. -/
theorem verdict (s : State) (slot : Nat) : s.Cedes 1 (s.verdict slot) := by
  unfold State.verdict
  split
  · exact applyClaim fun _ _ _ => Nat.le_refl 1
  · split
    · exact (refl s).mono (Nat.zero_le _)
    · exact (judgeCompleted s slot).mono (Nat.zero_le _)
  · exact (judgeBroken s slot).mono (Nat.zero_le _)
  · exact judgeHeard (fun _ _ _ => Nat.le_refl 1) (fun _ _ _ _ _ _ => Nat.le_refl 1) slot
  · exact judgeHeard (fun _ _ _ => Nat.le_refl 1) (fun _ _ _ _ _ _ => Nat.le_refl 1) slot

end State.Cedes

/-! ## The law -/

namespace State.OwnSlotsLawful

variable {s t : State} {n slot : Nat}

/-- R188: a claim noted for a slot in range is another station's. -/
theorem claimer_ne (h : s.OwnSlotsLawful) {r c : Byte} (hf : s.slot.finding = some (.claim r c)) (hr : 1 ≤ r.toNat)
    (hlt : r.toNat < s.slots) : BitVec.ofNat 5 c.toNat ≠ s.self := fun hself => by
  have hc := h.named r c hf hr hlt
  have hne := h.claimer r c hf
  rw [← hself, BitVec.toNat_ofNat, Nat.mod_eq_of_lt (by omega)] at hne
  exact hne rfl

/-- What the judgement leaves is lawful. -/
theorem cedes (h : s.OwnSlotsLawful) (hc : s.Cedes 0 t) : t.OwnSlotsLawful := by
  have hself := hc.shifts.self
  have hslots : t.slots = s.slots := by unfold State.slots; rw [hc.shifts.image]
  have hwanted : t.wanted = s.wanted := by unfold State.wanted; rw [hc.shifts.image]
  have hcount : t.heldCount + t.claimedCount ≤ s.heldCount + s.claimedCount := hc.count
  exact {
    atMost := hwanted ▸ hcount.trans h.atMost
    claiming := fun r c items hf => by
      rw [hc.transmission] at hf
      rw [hc.slot, hwanted]
      exact ⟨Nat.lt_of_le_of_lt hcount (h.claiming r c items hf).1, (h.claiming r c items hf).2⟩
    claimed := fun r ho hj => by
      rw [hc.slot] at ho hj
      rw [hwanted]
      exact Nat.lt_of_le_of_lt hcount (h.claimed r ho hj)
    sender := by simpa only [hc.slot, hself] using h.sender
    claimer := by simpa only [hc.slot, hself] using h.claimer
    named := by simpa only [hc.slot, hslots] using h.named
    configuring := fun hs => by
      have hconfig : s.sc.state = .config := by
        have hmoves := hc.shifts.moves
        rw [hs] at hmoves
        generalize s.sc.state = a at hmoves
        cases hmoves
        rfl
      obtain ⟨hentries, hframe, hown, hfinding⟩ := h.configuring hconfig
      exact ⟨hc.empty hentries, hc.transmission.trans hframe, by rw [hc.slot]; exact hown, by rw [hc.slot]; exact hfinding⟩ }

theorem same (h : s.OwnSlotsLawful) (hsc : t.sc = s.sc) (hslot : t.slot = s.slot)
    (hfb : t.fb.transmission = s.fb.transmission) (hentries : t.st.entries = s.st.entries) : t.OwnSlotsLawful :=
  h.cedes (.same hsc hslot hfb hentries)

/-- A station state that is as much CONFIG as the one before. -/
theorem state (h : s.OwnSlotsLawful) {sc : StationController} (himage : sc.image = s.sc.image)
    (hconfig : sc.state = .config → s.sc.state = .config) : ({ s with sc := sc } : State).OwnSlotsLawful := by
  have hself : ({ s with sc := sc } : State).self = s.self := by unfold State.self; rw [himage]
  have hslots : ({ s with sc := sc } : State).slots = s.slots := by unfold State.slots; rw [himage]
  have hwanted : ({ s with sc := sc } : State).wanted = s.wanted := by unfold State.wanted; rw [himage]
  have hheld : ({ s with sc := sc } : State).heldCount = s.heldCount := by unfold State.heldCount; rw [hself]
  have hclaimed : ({ s with sc := sc } : State).claimedCount = s.claimedCount := by unfold State.claimedCount; rw [hself]
  exact {
    atMost := by simpa only [hheld, hclaimed, hwanted] using h.atMost
    claiming := by simpa only [hheld, hclaimed, hwanted] using h.claiming
    claimed := by simpa only [hheld, hclaimed, hwanted] using h.claimed
    sender := hself ▸ h.sender
    claimer := hself ▸ h.claimer
    named := hslots ▸ h.named
    configuring := fun hs => h.configuring (hconfig hs) }

theorem change (h : s.OwnSlotsLawful) {after : StationState} (ha : after ≠ .config) (reason : Reason) :
    (s.changeState after reason).OwnSlotsLawful :=
  (h.state (sc := { s.sc with state := after }) rfl fun hs => absurd hs ha).same rfl rfl rfl rfl

/-- Another report of the slot, and another frame. -/
theorem report (h : s.OwnSlotsLawful) {slot : SlotReport} {fb : FrameBuilder}
    (hclaiming : ∀ r c items, fb.transmission = some { kind := .claim r, cycleCheck := c, items := items } →
      s.ownCount < s.wanted ∧ slot.judged = false)
    (hclaimed : ∀ r, slot.own = .claimCompleted r → slot.judged = false → s.ownCount < s.wanted)
    (hfinding : slot.finding = none ∨ slot.finding = some .invalid ∨ slot.finding = s.slot.finding)
    (hconfig : s.sc.state = .config → fb.transmission = none ∧ slot.own = .silent ∧ slot.finding = none) :
    ({ s with slot := slot, fb := fb } : State).OwnSlotsLawful where
  atMost := h.atMost
  claiming := hclaiming
  claimed := hclaimed
  sender z hz := by
    rcases hfinding with hf | hf | hf <;> rw [hf] at hz
    · cases hz
    · cases hz
    · exact h.sender z hz
  claimer r c hz := by
    rcases hfinding with hf | hf | hf <;> rw [hf] at hz
    · cases hz
    · cases hz
    · exact h.claimer r c hz
  named r c hz := by
    rcases hfinding with hf | hf | hf <;> rw [hf] at hz
    · cases hz
    · cases hz
    · exact h.named r c hz
  configuring hs := ⟨(h.configuring hs).1, hconfig hs⟩

/-- The report blank: of a slot that begins, or of none. -/
theorem blank (h : s.OwnSlotsLawful) : ({ s with slot := .blank } : State).OwnSlotsLawful :=
  h.report (slot := .blank) (fb := s.fb) (fun r c items hf => ⟨(h.claiming r c items hf).1, rfl⟩) nofun (.inl rfl)
    fun hs => ⟨(h.configuring hs).2.1, rfl, rfl⟩

/-- R116 to R119: an own frame ends; only a completed claim frame is still to be recorded. -/
theorem endFrame (h : s.OwnSlotsLawful) (hs : s.sc.state ≠ .config) (own : OwnOutcome)
    (hown : ∀ r, own = .claimCompleted r → s.ownCount < s.wanted) : (s.endFrame own).OwnSlotsLawful := by
  refine same (h.report (slot := (s.endFrame own).slot) (fb := (s.endFrame own).fb) nofun (fun r hr _ => hown r hr) ?_
    fun hc => absurd hc hs) rfl rfl rfl rfl
  simp only [State.endFrame]
  split
  · exact .inl rfl
  · exact .inr (.inr rfl)

theorem ne_config_of_sending (h : s.OwnSlotsLawful) {f : TxFrame} (hf : s.fb.transmission = some f) :
    s.sc.state ≠ .config := fun hs => by simp [(h.configuring hs).2.1] at hf

theorem itemsSent_same (s : State) (items : List TxItem) :
    (items.foldl State.itemSent s).sc = s.sc ∧ (items.foldl State.itemSent s).slot = s.slot ∧
    (items.foldl State.itemSent s).fb = s.fb ∧ (items.foldl State.itemSent s).st = s.st :=
  ⟨foldl_keeps _ State.sc (by simp) _ _, foldl_keeps _ State.slot (by simp) _ _, foldl_keeps _ State.fb (by simp) _ _,
    foldl_keeps _ State.st (by simp) _ _⟩

theorem frameDone (h : s.OwnSlotsLawful) (hs : s.sc.state ≠ .config) (slot : Nat) (f : TxFrame) :
    (s.frameDone slot f).OwnSlotsLawful := by
  unfold State.frameDone
  extract_lets fb t u v
  obtain ⟨hsc, hslot, hfb, hst⟩ := itemsSent_same t f.items
  have hu : u.OwnSlotsLawful := h.same hsc hslot (by rw [hfb]) (by rw [hst])
  have hv : v.OwnSlotsLawful :=
    (hu.cedes (.setFailures u slot 0)).endFrame (by simpa [hsc, u] using hs) _ nofun
  split
  · exact hv.cedes (.releaseOwn v slot)
  · exact hv

theorem frameBroken (h : s.OwnSlotsLawful) (hs : s.sc.state ≠ .config) (slot : Nat) (f : TxFrame) :
    (s.frameBroken slot f).OwnSlotsLawful := by
  unfold State.frameBroken
  extract_lets fb t u v
  have hu : u.OwnSlotsLawful := h.same (by simp [u, t]) (by simp [u, t]) (by simp [u, t, fb]) (by simp [u, t])
  have hsc : u.sc = s.sc := by simp [u, t]
  have hv : v.OwnSlotsLawful := by
    simp only [v]
    split
    · exact hu.cedes (.setFailures u slot _)
    · exact hu
  have hvsc : v.sc = s.sc := by
    simp only [v]
    split <;> simp [hsc]
  exact endFrame (s := v.countOwnFailure) (hv.same rfl rfl rfl rfl) (by simpa [hvsc] using hs) .bitError nofun

theorem frameBeaten (h : s.OwnSlotsLawful) (hs : s.sc.state ≠ .config) (slot : Nat) (f : TxFrame) :
    (s.frameBeaten slot f).OwnSlotsLawful := by
  unfold State.frameBeaten
  extract_lets fb t u v
  have hfailed : (t.itemsFailed f.items).OwnSlotsLawful := h.same (by simp [t]) (by simp [t]) (by simp [t, fb]) (by simp [t])
  have hu : u.OwnSlotsLawful := hfailed.endFrame (by simpa [t] using hs) .arbitrationLost nofun
  exact (hu.same (t := v) rfl rfl rfl rfl).cedes (.loseOwn v slot)

/-! The judgement. -/

theorem judgeHeard (h : s.OwnSlotsLawful) (slot : Nat) : s.Cedes 0 (s.judgeHeard slot) :=
  .judgeHeard (fun z hf hz => absurd hz (h.sender z hf)) (fun _ _ hf hr hlt hc => absurd hc (h.claimer_ne hf hr hlt)) slot

theorem verdict (h : s.OwnSlotsLawful) (hjudged : s.slot.judged = false) (slot : Nat) :
    ∃ n, s.Cedes n (s.verdict slot) ∧ s.ownCount + n ≤ s.wanted := by
  unfold State.verdict
  split
  · next r ho => exact ⟨1, .applyClaim fun _ _ _ => Nat.le_refl 1, h.claimed r ho hjudged⟩
  · split
    · exact ⟨0, .refl s, h.atMost⟩
    · exact ⟨0, .judgeCompleted s slot, h.atMost⟩
  · exact ⟨0, .judgeBroken s slot, h.atMost⟩
  · exact ⟨0, h.judgeHeard slot, h.atMost⟩
  · exact ⟨0, h.judgeHeard slot, h.atMost⟩

/-- R20: the one slot that the judgement can add is that of a claim frame sent below W. -/
theorem judge (h : s.OwnSlotsLawful) (hjudged : s.slot.judged = false) (hfb : s.fb.transmission = none) :
    s.judge.OwnSlotsLawful := by
  cases hslot : s.ct.slotIndex with
  | none =>
    unfold State.judge
    rw [hslot]
    exact h
  | some slot =>
    obtain ⟨n, hc, hn⟩ := h.verdict hjudged slot
    rw [State.judge_eq hslot]
    have hself := hc.shifts.self
    have hslots : (s.verdict slot).slots = s.slots := by unfold State.slots; rw [hc.shifts.image]
    have hwanted : (s.verdict slot).wanted = s.wanted := by unfold State.wanted; rw [hc.shifts.image]
    have hcount := hc.count.trans hn
    exact {
      atMost := hwanted ▸ hcount
      claiming := fun r c items hf => by simp [hc.transmission, hfb] at hf
      claimed := fun _ _ => nofun
      sender := fun z hz => by rw [hc.slot] at hz; exact hself ▸ h.sender z hz
      claimer := fun r c hz => by rw [hc.slot] at hz; exact hself ▸ h.claimer r c hz
      named := fun r c hz => by rw [hc.slot] at hz; exact hslots ▸ h.named r c hz
      configuring := fun hs => by
        have hconfig : s.sc.state = .config := by
          have hmoves := hc.shifts.moves
          rw [hs] at hmoves
          generalize s.sc.state = a at hmoves
          cases hmoves
          rfl
        obtain ⟨hentries, hframe, hown, hfinding⟩ := h.configuring hconfig
        exact ⟨hc.empty hentries, hc.transmission.trans hframe, by rw [hc.slot]; exact hown,
          by rw [hc.slot]; exact hfinding⟩ }

theorem judgeLate (h : s.OwnSlotsLawful) (hjudged : s.slot.judged = false) (hfb : s.fb.transmission = none) :
    s.judgeLate.OwnSlotsLawful := by
  unfold State.judgeLate
  split
  · exact h.judge hjudged hfb
  · exact h

/-! Reception. -/

/-- A finding noted where a station listens. -/
theorem note (h : s.OwnSlotsLawful) (hs : s.sc.state ≠ .config) {f : Finding} (hsender : ∀ z, f = .slotFrame z → z ≠ s.self)
    (hclaimer : ∀ r c, f = .claim r c →
      c.toNat ≠ s.self.toNat ∧ (1 ≤ r.toNat → r.toNat < s.slots → c.toNat ≤ 31)) : (s.note f).OwnSlotsLawful where
  atMost := h.atMost
  claiming := h.claiming
  claimed := h.claimed
  sender z hz := hsender z (Option.some.inj hz)
  claimer r c hz := (hclaimer r c (Option.some.inj hz)).1
  named r c hz := (hclaimer r c (Option.some.inj hz)).2
  configuring hc := absurd hc hs

theorem noteInvalid (h : s.OwnSlotsLawful) (hs : s.sc.state ≠ .config) : (s.note .invalid).OwnSlotsLawful :=
  h.note hs nofun nofun

theorem offersUnordered (h : s.OwnSlotsLawful) (xs ys : List EventRecord) : (s.offersUnordered xs ys).OwnSlotsLawful :=
  h.same (by simp) (by simp) (by simp) (by simp)

theorem sweepOutbox (h : s.OwnSlotsLawful) (f : OutEntry → OutEntry × Option Outcome) :
    (s.sweepOutbox f).OwnSlotsLawful :=
  h.same (by simp) (by simp) (by simp) (by simp)

theorem countFormat (h : s.OwnSlotsLawful) : s.countFormat.OwnSlotsLawful := h.same rfl rfl rfl rfl

/-- The law speaks of the report's outcome, its finding and whether it was judged. -/
theorem view (h : s.OwnSlotsLawful) (hsc : t.sc = s.sc) (hown : t.slot.own = s.slot.own)
    (hfinding : t.slot.finding = s.slot.finding) (hjudged : t.slot.judged = s.slot.judged)
    (hfb : t.fb.transmission = s.fb.transmission) (hentries : t.st.entries = s.st.entries) : t.OwnSlotsLawful := by
  refine same (h.report (slot := t.slot) (fb := t.fb) (fun r c items hf => ?_) (fun r ho hj => ?_) (.inr (.inr hfinding))
    fun hs => ?_) hsc rfl rfl hentries
  · rw [hfb] at hf
    rw [hjudged]
    exact h.claiming r c items hf
  · rw [hown] at ho
    rw [hjudged] at hj
    exact h.claimed r ho hj
  · rw [hfb, hown, hfinding]
    exact (h.configuring hs).2

end State.OwnSlotsLawful

/-- What the items of a peer's frame leave (R137, R138). -/
structure State.Hears (s t : State) : Prop where
  sc : t.sc = s.sc
  ct : t.ct = s.ct
  st : t.st = s.st
  lc : t.lc = s.lc
  slot : ∃ rs, t.slot = { s.slot with releases := rs }
  transmission : t.fb.transmission = s.fb.transmission

namespace State.Hears

variable {s t u : State}

theorem refl (s : State) : s.Hears s := ⟨rfl, rfl, rfl, rfl, ⟨_, rfl⟩, rfl⟩

theorem trans (h : s.Hears t) (h' : t.Hears u) : s.Hears u where
  sc := h'.sc.trans h.sc
  ct := h'.ct.trans h.ct
  st := h'.st.trans h.st
  lc := h'.lc.trans h.lc
  slot := by
    obtain ⟨rs, hs⟩ := h.slot
    obtain ⟨rs', hs'⟩ := h'.slot
    exact ⟨rs', by rw [hs', hs]⟩
  transmission := h'.transmission.trans h.transmission

theorem stage_transmission (s : State) (id : CueId) (v : Verdict) :
    (s.stage id v).fb.transmission = s.fb.transmission := by
  unfold State.stage
  repeat' (first | rfl | split)

theorem dispatch (s : State) (z : Station) (item : LineItem) : s.Hears (State.dispatch z s item) where
  sc := by simp
  ct := by simp
  st := by simp
  lc := by simp
  slot := by
    cases item with
    | cue | cancel => exact ⟨s.slot.releases, by simp [State.dispatch, State.takeCueItem, State.takeCancelItem]⟩
    | ack originator serial verdict =>
      refine ⟨s.slot.releases, ?_⟩
      simp only [State.dispatch]
      split <;> simp
    | release slot => exact ⟨_, rfl⟩
  transmission := by
    cases item with
    | cue => exact stage_transmission ..
    | cancel => exact stage_transmission ..
    | ack originator serial verdict =>
      simp only [State.dispatch]
      split <;> simp
    | release slot => rfl

theorem takeFrame (s : State) (z : Station) (bs : List Byte) : s.Hears (s.takeFrame z bs) := by
  have hitems : ∀ items : List LineItem, s.Hears (items.foldl (State.dispatch z) s) := fun items =>
    List.foldlRecOn (motive := fun t => s.Hears t) items _ (refl s) fun t ht item _ => ht.trans (dispatch t z item)
  unfold State.takeFrame
  split
  · dsimp only
    split
    · exact (hitems _).trans ⟨rfl, rfl, rfl, rfl, ⟨_, rfl⟩, rfl⟩
    · exact hitems _
  · exact ⟨rfl, rfl, rfl, rfl, ⟨_, rfl⟩, rfl⟩

end State.Hears

/-- R132: what stands where a station listens. -/
theorem State.listens_iff {s : State} : s.listens = true ↔
    s.sc.state.cyclesRun = true ∧ s.ct.phase = .slots ∧ s.ct.slotIndex.isSome = true ∧ s.slot.judged = false ∧
      s.slot.finding = none ∧ s.fb.transmission = none ∧ (s.slot.own = .silent ∨ s.slot.own = .arbitrationLost) := by
  simp only [State.listens, Bool.and_eq_true, beq_iff_eq, Bool.not_eq_true', Option.isNone_iff_eq_none, Bool.or_eq_true,
    and_assoc]

/-- R134, R188: what a valid finding says. -/
theorem assess_eq_ok {slot slots payload : Nat} {bs : List Byte} {framingError : Bool} {f : Finding}
    (h : assess slot slots payload bs framingError = .ok f) :
    (slot = 0 ∧ ∃ r c, f = .claim r c ∧ (1 ≤ r.toNat → r.toNat < slots → c.toNat ≤ 31)) ∨
    (slot ≠ 0 ∧ ∃ z, f = .slotFrame z) := by
  unfold assess at h
  split at h
  · cases h
  · split at h
    · cases h
    · split at h
      · cases h
      · dsimp only at h
        split at h
        · cases h
        · split at h
          · next hslot =>
            split at h
            · cases h
            · next hnum =>
              cases h
              refine .inl ⟨hslot, _, _, rfl, fun hr hlt => ?_⟩
              by_contra hc
              exact hnum ⟨by omega, hr, hlt⟩
          · next hslot =>
            split at h
            · cases h
            · cases h
              exact .inr ⟨hslot, _, rfl⟩

namespace State.OwnSlotsLawful

variable {s t : State}

/-- R34: this station holds and claims nothing, and nothing of its is on its way. -/
theorem ofFree {k : Nat} (hst : t.st.entries = List.replicate k .free) (hframe : t.fb.transmission = none)
    (hown : t.slot.own = .silent) (hfinding : t.slot.finding = none) (hconfig : t.sc.state = .config → k = 0) :
    t.OwnSlotsLawful where
  atMost := by
    have hcount : t.ownCount = 0 := by
      rw [State.ownCount_eq, hst]
      exact List.countP_eq_zero.2 fun e he => by
        rw [List.eq_of_mem_replicate he]
        exact Bool.false_ne_true
    exact hcount.trans_le (Nat.zero_le _)
  claiming r c items hf := by simp [hframe] at hf
  claimed r ho := by simp [hown] at ho
  sender z hz := by simp [hfinding] at hz
  claimer r c hz := by simp [hfinding] at hz
  named r c hz := by simp [hfinding] at hz
  configuring hs := ⟨by rw [hst, hconfig hs]; rfl, hframe, hown, hfinding⟩

theorem enterHalted (s : State) (reason : FaultReason) : (s.enterHalted reason).OwnSlotsLawful :=
  ofFree (t := s.enterHalted reason) (List.map_const' ..) rfl rfl rfl nofun

theorem enterLineFault (s : State) (reason : FaultReason) : (s.enterLineFault reason).OwnSlotsLawful :=
  ofFree (t := s.enterLineFault reason) (List.map_const' ..) rfl rfl rfl nofun

theorem resync (s : State) (reason : Reason) (own : EventRecord) : (s.resync reason own).OwnSlotsLawful :=
  ofFree (t := s.resync reason own) (List.map_const' ..) rfl rfl rfl nofun

theorem takeValid (h : s.OwnSlotsLawful) (hl : s.listens = true) {f : Finding} (bs : List Byte)
    (hf : ∀ r c, f = .claim r c → 1 ≤ r.toNat → r.toNat < s.slots → c.toNat ≤ 31) :
    (s.takeValid f bs).OwnSlotsLawful := by
  obtain ⟨hrun, -, -, hjudged, -, hfb, -⟩ := State.listens_iff.1 hl
  have hs := StationState.ne_config_of_cyclesRun hrun
  unfold State.takeValid
  split
  · next r c =>
    split
    · exact enterHalted s _
    · next hc =>
      have hclaim : (s.takeClaim r).OwnSlotsLawful := h.same (by simp) (by simp) (by simp) (by simp)
      have hself : (s.takeClaim r).self = s.self := by simp [State.self]
      have hslots : (s.takeClaim r).slots = s.slots := by simp [State.slots]
      refine (hclaim.note (by simpa using hs) (fun _ hz => by cases hz) fun r' c' hrc => ?_).judgeLate ?_ ?_
      · cases hrc
        exact ⟨hself ▸ hc, hslots ▸ hf r c rfl⟩
      · simpa [State.note] using hjudged
      · simpa using hfb
  · next z =>
    split
    · split
      · exact enterHalted s _
      · exact h
    · next hz =>
      have hnote := h.note hs (f := .slotFrame z) (fun y hy => by cases hy; exact hz) nofun
      have hears := State.Hears.takeFrame (s.note (.slotFrame z)) z bs
      obtain ⟨rs, hrs⟩ := hears.slot
      refine (hnote.view hears.sc (by rw [hrs]) (by rw [hrs]) (by rw [hrs]) hears.transmission (by rw [hears.st])).judgeLate ?_ ?_
      · rw [hrs]
        exact hjudged
      · exact hears.transmission.trans hfb
  · exact h

theorem frameLost (h : s.OwnSlotsLawful) (hl : s.listens = true) : s.frameLost.OwnSlotsLawful := by
  obtain ⟨hrun, -, -, hjudged, -, hfb, -⟩ := State.listens_iff.1 hl
  exact (h.countFormat.noteInvalid (StationState.ne_config_of_cyclesRun hrun)).judgeLate hjudged hfb

theorem receive (h : s.OwnSlotsLawful) (hl : s.listens = true) (bs : List Byte) (framingError : Bool) :
    (s.receive bs framingError).OwnSlotsLawful := by
  obtain ⟨hrun, -, -, hjudged, -, hfb, -⟩ := State.listens_iff.1 hl
  have hs := StationState.ne_config_of_cyclesRun hrun
  unfold State.receive
  split
  · exact h
  · split
    · next f hf =>
      refine h.takeValid hl bs fun r c hrc => ?_
      rcases assess_eq_ok hf with ⟨-, r', c', hf', hle⟩ | ⟨-, z, hf'⟩
      · rw [hrc] at hf'
        cases hf'
        exact hle
      · rw [hrc] at hf'
        cases hf'
    · exact ((h.same (t := s.countCrc) rfl rfl rfl rfl).noteInvalid hs).judgeLate hjudged hfb
    · split
      · exact frameLost (h.view rfl rfl rfl rfl rfl rfl) hl
      · exact h.frameLost hl

/-! ## The openings and the slots -/

theorem learnAt (h : s.OwnSlotsLawful) (role : OpeningRole) (backward : Bool) : (s.learnAt role backward).OwnSlotsLawful := by
  unfold State.learnAt
  split
  · exact h.change (by simp) _
  · split
    · refine h.change ?_ _
      split <;> simp
    · exact h
  all_goals exact h

theorem finishOpening (h : s.OwnSlotsLawful) (o : Opening) : (s.finishOpening o).OwnSlotsLawful := by
  unfold State.finishOpening
  extract_lets deadlines ob t u v
  have ht : t.OwnSlotsLawful := h.blank.same rfl rfl rfl rfl
  have hv : v.OwnSlotsLawful := by
    simp only [v]
    split <;> exact ht.same (by simp [u]) (by simp [u]) (by simp [u]) (by simp [u])
  exact hv.learnAt _ _

theorem endShape (h : s.OwnSlotsLawful) (o : Opening) (shape : Byte) : (s.endShape o shape).OwnSlotsLawful := by
  unfold State.endShape
  split
  · exact enterHalted ..
  · split
    · exact (resync ..).finishOpening o
    · exact h.finishOpening o

theorem recognizePulse (h : s.OwnSlotsLawful) (run : Nat) (inWindow : Bool) :
    (s.recognizePulse run inWindow).OwnSlotsLawful := by
  unfold State.recognizePulse
  split
  · exact h
  · split
    · exact h.same rfl rfl rfl rfl
    · split
      · exact (resync s .stray (.strayOpening .outsideWindow s.ct.cycle none)).same rfl rfl rfl rfl
      · split
        · exact h.same rfl rfl rfl rfl
        · exact h

theorem beginOpening (h : s.OwnSlotsLawful) (position : Nat) : (s.beginOpening position).OwnSlotsLawful :=
  h.blank.same rfl rfl rfl rfl

/-- R22: a claim frame is fixed below W alone. -/
theorem claimPolicy (h : s.OwnSlotsLawful) (hs : s.sc.state ≠ .config) (hjudged : s.slot.judged = false) :
    s.claimPolicy.1.OwnSlotsLawful := by
  have hs1 : ∀ b : Bool, ({ s with st := { s.st with reportArmed := b } } : State).OwnSlotsLawful := fun b =>
    h.same rfl rfl rfl rfl
  have hs2 : (if s.st.freeSlots.isEmpty then s else { s with st := { s.st with reportArmed := true } } :
      State).OwnSlotsLawful := by
    split
    · exact h
    · exact hs1 true
  have hcount : s.sc.state = .claiming ∧ s.heldCount + s.claimedCount < s.wanted → ∀ r,
      ((if s.st.freeSlots.isEmpty then s else { s with st := { s.st with reportArmed := true } } :
        State).fixClaim r).OwnSlotsLawful := fun hc r => by
    split
    · exact (h.report (slot := s.slot) (fb := (s.fixClaim r).fb) (fun _ _ _ _ => ⟨hc.2, hjudged⟩)
        h.claimed (.inr (.inr rfl)) fun hs' => absurd hs' hs).same rfl rfl rfl rfl
    · exact ((hs1 true).report (slot := s.slot) (fb := (s.fixClaim r).fb) (fun _ _ _ _ => ⟨hc.2, hjudged⟩)
        h.claimed (.inr (.inr rfl)) fun hs' => absurd hs' hs).same rfl rfl rfl rfl
  unfold State.claimPolicy
  dsimp only
  split
  · next hc =>
    split
    · exact hcount hc _
    · split
      · exact hs1 false
      · exact h
  · exact hs2

theorem fixSlotFrame (h : s.OwnSlotsLawful) (hs : s.sc.state ≠ .config) (slot : Nat) :
    (s.fixSlotFrame slot).OwnSlotsLawful :=
  (h.report (slot := s.slot) (fb := (s.fixSlotFrame slot).fb) (fun _ _ _ hf => by cases hf) h.claimed (.inr (.inr rfl))
    fun hs' => absurd hs' hs).same rfl rfl rfl rfl

theorem beginSlot (h : s.OwnSlotsLawful) (hs : s.sc.state ≠ .config) (slot : Nat) : (s.beginSlot slot).OwnSlotsLawful := by
  unfold State.beginSlot
  extract_lets timer blank t work claim reported
  have ht : t.OwnSlotsLawful := by
    refine (h.blank.report (slot := t.slot) (fb := s.fb) (fun r c items hf => ⟨(h.claiming r c items hf).1, rfl⟩) nofun ?_
      fun hc => absurd hc hs).same rfl rfl rfl rfl
    simp only [t]
    split
    · exact .inr (.inl rfl)
    · exact .inl rfl
  have hwork : work.1.OwnSlotsLawful := ht.same rfl rfl rfl rfl
  split
  · exact (hwork.claimPolicy hs rfl).offersUnordered _ _
  · have hreported : reported.OwnSlotsLawful := hwork.same rfl rfl rfl rfl
    split
    · exact hreported.fixSlotFrame hs slot
    · exact hreported

theorem endSlot (h : s.OwnSlotsLawful) (hjudged : s.slot.judged = false) (hfb : s.fb.transmission = none) (slot : Nat)
    (late : Option (List Byte)) : (s.endSlot slot late).OwnSlotsLawful := by
  have hmoved : ∀ (ct : CycleTimer) (lc : LineController), ({ s with ct := ct, lc := lc } : State).judge.OwnSlotsLawful :=
    fun ct lc => judge (h.same rfl rfl rfl rfl) hjudged hfb
  unfold State.endSlot
  dsimp only
  split
  · split
    · exact h.view rfl rfl rfl rfl rfl rfl
    · exact hmoved _ _
  · exact hmoved _ _

end State.OwnSlotsLawful

/-! ## Every row, every step -/

/-- R21: every row keeps the bound. -/
theorem rowEffects_ownSlots (c : Instr) : RowEffects c fun s t => s.OwnSlotsLawful → t.OwnSlotsLawful where
  reset _ s reason _ := .ofFree (k := 0) rfl rfl rfl rfl fun _ => rfl
  configure _ s p im hc _ h := by
    obtain ⟨hentries, hframe, hown, hfinding⟩ := h.configuring hc
    exact .ofFree (k := 0) hentries hframe hown hfinding fun _ => rfl
  start s im hc him h := by
    obtain ⟨-, hframe, hown, hfinding⟩ := h.configuring hc
    exact .ofFree (k := im.slots.toNat - 1) rfl hframe hown hfinding nofun
  leave s ht h := by
    have hleaving := (h.state (sc := { s.sc with talkIntent := false }) rfl id).change (after := .leaving) (by simp) .leave
    exact (hleaving.sweepOutbox _).cedes (.checkCounts _)
  join s hq h := (h.state (sc := { s.sc with talkIntent := true }) rfl id).change (by simp) _
  submit _ _ _ _ _ _ h := h.same rfl rfl rfl rfl
  cancel s n h := by
    rcases s.cancelSerial_cases n with heq | heq | ⟨-, -, heq | ⟨-, heq⟩⟩ <;> rw [heq]
    · exact h.same (by simp) (by simp) (by simp) (by simp)
    · exact h
    · exact h.same rfl rfl rfl rfl
    · exact h.same (by simp) (by simp) (by simp) (by simp)
  takeEvents _ _ h := h.same rfl rfl rfl rfl
  zeroCounters _ h := h.same rfl rfl rfl rfl
  drive _ _ _ _ _ _ h := h.same rfl rfl rfl rfl
  bind _ _ i _ _ _ h := h.same (by simp) (by simp) (by simp) (by simp)
  unbind _ i h := h.same (by simp) (by simp) (by simp) (by simp)
  edge _ i h := h.same (by simp) (by simp) (by simp) (by simp)
  period _ h := h.same rfl rfl rfl rfl
  expiry _ _ _ h := h.same rfl rfl rfl rfl
  opens _ _ h := h.beginOpening 0
  deferred _ hl _ _ h := by
    obtain ⟨hrun, -, -, hjudged, -, hfb, -⟩ := State.listens_iff.1 hl
    exact ((h.countFormat.noteInvalid (StationState.ne_config_of_cyclesRun hrun)).judge hjudged hfb).beginOpening 10
  pulseRelease _ _ _ _ _ _ h := h.same rfl rfl rfl rfl
  noEcho s _ _ _ _ _ _ _ := (State.OwnSlotsLawful.enterLineFault s .noEcho).same rfl rfl rfl rfl
  pulse _ run inWindow h := h.recognizePulse run inWindow
  numberLoss _ _ _ _ _ _ h := h.same rfl rfl rfl rfl
  numberEnd _ _ _ _ _ _ _ h := h.same rfl rfl rfl rfl
  shapeEnd _ o shape _ _ _ h := h.endShape o shape
  damage _ h := h.same (by simp) (by simp) (by simp) (by simp)
  slotBegin _ slot hslot h := h.beginSlot (StationState.ne_config_of_cyclesRun (State.nextSlot_spec hslot).1) slot
  slotEnd _ slot late _ _ _ hjudged hfb h := h.endSlot hjudged hfb slot late
  frameDone _ f slot hf _ h := h.frameDone (h.ne_config_of_sending hf) slot f
  frameBroken _ f slot hf _ h := h.frameBroken (h.ne_config_of_sending hf) slot f
  frameBeaten _ f slot hf _ h := h.frameBeaten (h.ne_config_of_sending hf) slot f
  claimBeaten s f r read hf _ h :=
    State.OwnSlotsLawful.same (State.OwnSlotsLawful.endFrame (s := s.countClaimLoss) (h.same rfl rfl rfl rfl)
      (h.ne_config_of_sending hf) .arbitrationLost nofun) rfl rfl rfl rfl
  claimBroken s f r hf _ h := State.OwnSlotsLawful.endFrame (s := s.countOwnFailure) (h.same rfl rfl rfl rfl)
    (h.ne_config_of_sending hf) .bitError nofun
  claimDone _ f r hf hkind h := h.endFrame (h.ne_config_of_sending hf) _ fun _ _ => by
    obtain ⟨kind, cycleCheck, items⟩ := f
    obtain rfl : kind = .claim r := hkind
    exact (h.claiming r cycleCheck items hf).1
  received _ bs framingError hl h := h.receive hl bs framingError
  lostAhead _ _ h := h.view rfl rfl rfl rfl rfl rfl
  frameLost _ hl h := h.frameLost hl
  stray _ _ h := h.countFormat
  stuck s _ _ := (State.OwnSlotsLawful.enterLineFault s .stuck).same rfl rfl rfl rfl
  stuckAgain _ _ h := h.same rfl rfl rfl rfl
  restored s hs h := by
    have hcleared := h.state (sc := { s.sc with faultReason := none }) rfl id
    exact ((hcleared.same (t := { s with sc := { s.sc with faultReason := none }, ct := s.ct.wait s.listenTime
                                         lc := { s.lc with dominantRun := 0, recessiveRun := 64 } })
      rfl rfl rfl rfl).change (after := .listening) (by simp) .restored).same rfl rfl rfl rfl
  fallingEdge _ _ h := h.same rfl rfl rfl rfl

/-- Settles O58: every row keeps the bound, and neither the bit time nor the waiting of commands touches it. -/
theorem stepKeepsOwnSlots : Obligations.StepKeepsOwnSlots := fun _ _ hst hs =>
  KeptByRows.step
    { port := fun _ _ h => h.same rfl rfl rfl rfl
      hold := fun _ _ h => h.same rfl rfl rfl rfl
      pins := fun _ _ _ h => h.same rfl rfl rfl rfl
      effects := rowEffects_ownSlots }
    (fun _ _ h => h.same rfl rfl rfl rfl) (fun _ h => h.same rfl rfl rfl rfl) hst hs

end Sys2Proof.Machine
end

section
/-! PROOFS. The own slot frame: what it is offered and fixed with. -/

namespace Sys2Proof.Machine

variable {s : State}

/-! ## What a slot frame is offered (R92, R100, R110) -/

/-- R98: the unanswered stations of an entry that was sent. -/
theorem SendData.isUnanswered_iff {d : SendData} {z : Station} :
    d.isUnanswered z = true ↔ answerOf d.answers z = none ∨ answerOf d.answers z = some .queueFull := by
  unfold SendData.isUnanswered
  cases answerOf d.answers z <;> simp

theorem OutEntry.unanswered_isEmpty {e : OutEntry} {d : SendData} (hd : e.send = some d) :
    e.unanswered.isEmpty = false ↔
      ∃ z ∈ d.expected, answerOf d.answers z = none ∨ answerOf d.answers z = some .queueFull := by
  simp only [OutEntry.unanswered, hd, ← SendData.isUnanswered_iff]
  rw [← Bool.not_eq_true, List.isEmpty_iff, List.filter_eq_nil_iff]
  simp

/-- R93, R100: a retry of a cue is not offered once its due cycle has come. -/
theorem OutEntry.due_ahead {e : OutEntry} {d : SendData} (hd : e.send = some d) (now : Cycle) :
    (match e.due with
      | none => true
      | some due => later due.1 now) = true ↔
      ∀ t pending, e.kind = .cue t pending → later (ahead d.firstSend t.lead) now = true := by
  unfold OutEntry.due
  cases hk : e.kind with
  | cancel => simp
  | cue t pending =>
    simp only [hd, OutKind.cue.injEq, and_imp]
    exact ⟨fun h _ _ ht _ => ht ▸ h, fun h => h t pending rfl rfl⟩

theorem OutEntry.eligible_iff {e : OutEntry} {now : Cycle} {retries : Nat} :
    e.eligible now retries = true ↔ e.state = .sent ∧ ∃ d, e.send = some d ∧ d.attempts < 1 + retries ∧
      earlier now (ahead d.lastSend 2) = false ∧
      (∀ t pending, e.kind = .cue t pending → later (ahead d.firstSend t.lead) now = true) ∧
      ∃ z ∈ d.expected, answerOf d.answers z = none ∨ answerOf d.answers z = some .queueFull := by
  unfold OutEntry.eligible
  cases hd : e.send with
  | none => simp
  | some d =>
    simp only [Bool.and_eq_true, beq_iff_eq, decide_eq_true_eq, Bool.not_eq_true',
      OutEntry.unanswered_isEmpty hd, Option.some.injEq, exists_eq_left', and_assoc]
    exact and_congr_right fun _ => and_congr_right fun _ => and_congr_right fun _ => and_congr_left fun _ =>
      OutEntry.due_ahead hd now

theorem Outbox.cancelOpen_iff {o : Outbox} {n : Serial} :
    o.cancelOpen n = true ↔ ∃ c ∈ o.entries, c.isCue = false ∧ c.serial = n := by
  have hkind : ∀ c : OutEntry, c.cueKind = .cancel ↔ c.isCue = false := fun c => by
    unfold OutEntry.cueKind
    cases c.isCue <;> simp
  simp [Outbox.cancelOpen, Outbox.find, OutEntry.named_iff, hkind]

theorem State.mem_ready {e : OutEntry} (he : e ∈ s.ob.entries) :
    e ∈ s.ready ↔ (e.state = .queued ∨ e.eligible s.ct.cycle s.retryLimit = true) ∧
      ¬(e.isCue = true ∧ s.ob.cancelOpen e.serial = true) := by
  simp only [State.ready, List.mem_filter, he, true_and, OutEntry.candidate, Bool.and_eq_true, Bool.or_eq_true, beq_iff_eq,
    Bool.not_eq_true', Bool.and_eq_false_iff, not_and_or, Bool.not_eq_true]

/-! ## The size of the items (section 11.2) -/

/-- The bytes of a list of items. -/
def itemsSize (items : List TxItem) : Nat := (items.flatMap TxItem.bytes).length

theorem itemsSize_append (xs ys : List TxItem) : itemsSize (xs ++ ys) = itemsSize xs + itemsSize ys := by
  simp [itemsSize]

/-- Items of one size. -/
theorem itemsSize_of_forall {items : List TxItem} {n : Nat} (h : ∀ i ∈ items, i.bytes.length = n) :
    itemsSize items = n * items.length := by
  induction items with
  | nil => rfl
  | cons i is ih =>
    have hcons : itemsSize (i :: is) = i.bytes.length + itemsSize is := by simp [itemsSize]
    rw [hcons, h i List.mem_cons_self, ih fun j hj => h j (List.mem_cons_of_mem _ hj), List.length_cons]
    ring

theorem TxItem.cue_length (n : Serial) (retry : Bool) (lead : Nat) (contents : CueContents) :
    (TxItem.cue n retry lead contents).bytes.length = 12 := by
  simp only [TxItem.bytes]
  cases contents.action <;> rfl

theorem OutEntry.cancelItem_length {es : List OutEntry} {i : TxItem} (hi : i ∈ es.filterMap OutEntry.cancelItem) :
    i.bytes.length = 3 := by
  obtain ⟨e, -, he⟩ := List.mem_filterMap.1 hi
  unfold OutEntry.cancelItem at he
  split at he <;> cases he
  rfl

theorem OutEntry.cueItem_length {es : List OutEntry} {now : Cycle} {i : TxItem}
    (hi : i ∈ es.filterMap (OutEntry.cueItem now)) : i.bytes.length = 12 := by
  obtain ⟨e, -, he⟩ := List.mem_filterMap.1 hi
  unfold OutEntry.cueItem at he
  split at he
  · cases he
  · cases he
    split <;> exact TxItem.cue_length ..

/-- A pass that places as many items as fit. -/
theorem take_fits {α : Type} (xs : List α) {n room : Nat} (hn : 0 < n) :
    n * (xs.take (room / n)).length ≤ room ∧
      (xs.take (room / n) ≠ xs → room < n * (xs.take (room / n)).length + n) := by
  rw [List.length_take]
  refine ⟨(Nat.mul_le_mul_left n (Nat.min_le_left ..)).trans (Nat.mul_div_le room n), fun h => ?_⟩
  have hlt : room / n < xs.length := by
    by_contra hle
    exact h (List.take_of_length_le (Nat.not_lt.1 hle))
  rw [Nat.min_eq_left hlt.le]
  exact Nat.lt_mul_div_succ room hn

/-- The four passes of a slot frame. -/
structure State.Passes (s : State) (slot : Nat) (first cancels cues : List TxItem) : Prop where
  items : s.frameItems slot = first ++ cancels ++ cues
  firstPasses : first = s.releaseItems slot ++ (s.fb.staging.take s.ackLimit).map fun e => TxItem.ack e.id e.verdict
  cancelPass : cancels <+: s.frameCandidates.filterMap OutEntry.cancelItem
  cuePass : cues <+: s.frameCandidates.filterMap (OutEntry.cueItem s.ct.cycle)
  fits : itemsSize (first ++ cancels ++ cues) ≤ s.payload
  allCancels : cancels ≠ s.frameCandidates.filterMap OutEntry.cancelItem → s.payload < itemsSize (first ++ cancels) + 3
  allCues : cues ≠ s.frameCandidates.filterMap (OutEntry.cueItem s.ct.cycle) →
    s.payload < itemsSize (first ++ cancels ++ cues) + 12

/-- R108, R109: a slot frame's passes, where there is room for a RELEASE. -/
theorem State.frameItems_passes (slot : Nat) (hroom : 2 ≤ s.payload) :
    ∃ first cancels cues, s.Passes slot first cancels cues := by
  let first := s.releaseItems slot ++ (s.fb.staging.take s.ackLimit).map fun e => TxItem.ack e.id e.verdict
  let room := s.payload - itemsSize first
  let allCancels := s.frameCandidates.filterMap OutEntry.cancelItem
  let cancels := allCancels.take (room / 3)
  let allCues := s.frameCandidates.filterMap (OutEntry.cueItem s.ct.cycle)
  let cues := allCues.take ((room - 3 * cancels.length) / 12)
  have hrelease : itemsSize (s.releaseItems slot) = 2 * (s.releaseItems slot).length := by
    unfold State.releaseItems
    split <;> rfl
  have hacks : itemsSize ((s.fb.staging.take s.ackLimit).map fun e => TxItem.ack e.id e.verdict) =
      4 * (s.fb.staging.take s.ackLimit).length := by
    rw [itemsSize_of_forall (n := 4), List.length_map]
    intro i hi
    obtain ⟨e, -, rfl⟩ := List.mem_map.1 hi
    rfl
  have hfirst : itemsSize first = 2 * (s.releaseItems slot).length + 4 * (s.fb.staging.take s.ackLimit).length := by
    rw [itemsSize_append, hrelease, hacks]
  have hfits : itemsSize first ≤ s.payload := by
    have hlen : (s.fb.staging.take s.ackLimit).length ≤ s.ackLimit := List.length_take_le ..
    have hlimit : 2 * (s.releaseItems slot).length + 4 * s.ackLimit ≤ s.payload := by
      unfold State.releaseItems State.ackLimit
      split
      · rw [List.length_singleton]
        omega
      · rw [List.length_nil]
        split <;> omega
    omega
  have hcancels : itemsSize cancels = 3 * cancels.length :=
    itemsSize_of_forall fun i hi => OutEntry.cancelItem_length (List.mem_of_mem_take hi)
  have hcues : itemsSize cues = 12 * cues.length :=
    itemsSize_of_forall fun i hi => OutEntry.cueItem_length (List.mem_of_mem_take hi)
  obtain ⟨hcancelsFit, hcancelsAll⟩ := take_fits allCancels (room := room) (n := 3) (by omega)
  obtain ⟨hcuesFit, hcuesAll⟩ := take_fits allCues (room := room - 3 * cancels.length) (n := 12) (by omega)
  change 3 * cancels.length ≤ room at hcancelsFit
  change cancels ≠ allCancels → room < 3 * cancels.length + 3 at hcancelsAll
  change 12 * cues.length ≤ room - 3 * cancels.length at hcuesFit
  change cues ≠ allCues → room - 3 * cancels.length < 12 * cues.length + 12 at hcuesAll
  refine ⟨first, cancels, cues, ?_, rfl, List.take_prefix .., List.take_prefix .., ?_, fun h => ?_, fun h => ?_⟩
  · have hroomEq : s.payload - 2 * (s.releaseItems slot).length -
        4 * ((s.fb.staging.take s.ackLimit).map fun e => TxItem.ack e.id e.verdict).length = room := by
      rw [List.length_map]
      omega
    simp only [State.frameItems, hroomEq]
    rfl
  · rw [itemsSize_append, itemsSize_append, hcancels, hcues]
    omega
  · have := hcancelsAll h
    rw [itemsSize_append, hcancels]
    omega
  · have := hcuesAll h
    rw [itemsSize_append, itemsSize_append, hcancels, hcues]
    omega

theorem markInFlight_eq (n : Nat) (l : List Staged) :
    markInFlight n l = (l.take n).map (fun e => { e with flight := .inFlight }) ++ l.drop n := by
  induction n generalizing l with
  | zero => rfl
  | succ n ih =>
    cases l with
    | nil => rfl
    | cons e es => simp [markInFlight, ih]

/-- R166: P is 24, 48 or 96. -/
theorem State.payload_ge {im : Image} (him : s.sc.image = some im) : s.payload = im.payload.toNat ∧ 24 ≤ s.payload := by
  have heq : s.payload = im.payload.toNat := by simp [State.payload, him]
  refine ⟨heq, ?_⟩
  rw [heq]
  cases im.payload <;> decide

/-- Settles O27: the offered entries by their state, the items by their kind, and the frame by its passes. -/
theorem slotFrameContent : Obligations.SlotFrameContent := by
  refine ⟨fun s => ⟨List.filter_sublist, fun e he => ?_⟩, fun now e => ⟨fun t pending hk => ?_, fun hk => ?_⟩, ?_⟩
  · rw [State.mem_ready he, OutEntry.eligible_iff, Outbox.cancelOpen_iff]
  · simp only [OutEntry.cancelItem, OutEntry.cueItem, OutEntry.due, hk, true_and]
    exact ⟨fun hn => by simp only [hn], fun d hd => by simp only [hd]; rfl⟩
  · simp only [OutEntry.cancelItem, OutEntry.cueItem, hk, and_self]
  · intro s slot im him leaving room limit size offered allCancels allCues first
    obtain ⟨hpayload, hge⟩ := State.payload_ge him
    obtain ⟨first', cancels, cues, hpass⟩ := s.frameItems_passes slot (by omega)
    have hleaving : leaving = true ↔ s.sc.state = .leaving := beq_iff_eq
    have hlimit : s.ackLimit = limit := by
      simp only [limit, State.ackLimit, ← hleaving, hpayload, room]
    have hoffered : s.frameCandidates = offered := by
      simp only [offered, State.frameCandidates, ← hleaving]
    obtain ⟨hitems, hfirst', hcancels, hcues, hfits, hallCancels, hallCues⟩ := hpass
    have hfirst : first' = first := by
      rw [hfirst', hlimit]
      simp only [first, State.releaseItems, ← hleaving]
    rw [hoffered] at hcancels hcues hallCancels hallCues
    rw [hpayload] at hfits hallCancels hallCues
    rw [hfirst] at hitems hfits hallCancels hallCues
    refine ⟨cancels, cues, hcancels, hcues, hfits, hallCancels, hallCues, ?_⟩
    rw [State.fixSlotFrame, hitems, markInFlight_eq, hlimit]
    rfl

end Sys2Proof.Machine
end

section
/-! PROOFS. The line controller in agreement with the frame in transmission and the opening, through every operation and every step. -/

namespace Sys2Proof.Machine

/-! ## What the line controller holds (R123, R124) -/

/-- The runs and the levels of the byte in progress in their ranges. -/
structure LineController.InRange (l : LineController) : Prop where
  dominant : l.dominantRun ≤ 40
  recessive : l.recessiveRun ≤ 64
  reading : ∀ levels, l.reading = some levels → 1 ≤ levels.length ∧ levels.length ≤ 9

namespace LineController.InRange

variable {l k : LineController}

theorem congr (h : l.InRange) (hd : k.dominantRun = l.dominantRun) (hr : k.recessiveRun = l.recessiveRun)
    (hread : k.reading = l.reading) : k.InRange :=
  ⟨hd ▸ h.dominant, hr ▸ h.recessive, hread ▸ h.reading⟩

/-- Another dominant run in its range. -/
theorem run (h : l.InRange) (hd : k.dominantRun ≤ 40) (hr : k.recessiveRun = l.recessiveRun)
    (hread : k.reading = l.reading) : k.InRange :=
  ⟨hd, hr ▸ h.recessive, hread ▸ h.reading⟩

theorem fieldEnd (h : l.InRange) (damaged : Bool) : (l.fieldEnd damaged).InRange := by
  cases damaged
  · exact h.run (Nat.zero_le _) rfl rfl
  · exact h

theorem runEnd (h : l.InRange) : l.runEnd.InRange := h.run (Nat.zero_le _) rfl rfl

theorem release (h : l.InRange) : l.release.InRange := h.congr rfl rfl rfl

theorem pulse (h : l.InRange) {position : Nat} (hp : position ≤ 40) : (l.pulse position).InRange :=
  ⟨Nat.max_le.2 ⟨hp, h.dominant⟩, Nat.zero_le _, nofun⟩

end LineController.InRange

/-- The judgement of a slot leaves the frame in transmission. -/
theorem State.judge_transmission (s : State) : s.judge.fb.transmission = s.fb.transmission := by
  cases hslot : s.ct.slotIndex with
  | none =>
    unfold State.judge
    rw [hslot]
  | some slot =>
    rw [State.judge_eq hslot]
    exact (State.Cedes.verdict s slot).transmission

theorem State.LineLawful.inRange {s : State} (h : s.LineLawful) : s.lc.InRange := ⟨h.dominant, h.recessive, h.reading⟩

namespace State.LineLawful

variable {s t : State} {slot : Nat}

/-! ## States with nothing on the line -/

theorem transmission_none_of_phase (h : s.LineLawful) (hp : s.ct.phase ≠ .slots) : s.fb.transmission = none := by
  by_contra hf
  exact hp (h.frame hf).2.1

theorem transmission_none_of_state (h : s.LineLawful) (hs : s.sc.state.cyclesRun = false) : s.fb.transmission = none := by
  by_contra hf
  exact absurd (h.frame hf).1 (by simp [hs])

theorem overheard_none (h : s.LineLawful) (hf : s.fb.transmission = none) : s.lc.overheard = none := by
  by_contra ho
  exact h.overhearing ho hf

/-- Nothing is sent outside an opening while there is no frame. -/
theorem sending_nothing (h : s.LineLawful) (hf : s.fb.transmission = none)
    (ho : s.ct.phase ≠ .opening ∨ s.ct.role ≠ .participant) : s.lc.sending = .nothing := by
  cases hsend : s.lc.sending with
  | nothing => rfl
  | opening =>
    obtain ⟨hphase, hrole⟩ := h.opening hsend
    exact absurd ⟨hphase, hrole⟩ (not_and_or.2 ho)
  | claim =>
    obtain ⟨f, r, hfr, -⟩ := h.claim.1 hsend
    simp [hf] at hfr
  | slot =>
    obtain ⟨f, n, hfn, -⟩ := h.slot.1 hsend
    simp [hf] at hfn

/-- A station on the line with no frame of its own: what LC sends is nothing, or its part of the opening. -/
theorem ofListening (hl : t.lc.InRange) (hline : t.sc.state.onLine = true) (himage : t.sc.image.isSome = true)
    (hframe : t.fb.transmission = none) (hover : t.lc.overheard = none)
    (hsend : t.lc.sending = .nothing ∨ (t.lc.sending = .opening ∧ t.ct.phase = .opening ∧ t.ct.role = .participant))
    (hstand : t.lc.arbitration = .inside → t.lc.sending ≠ .nothing)
    (hrecv : t.lc.reception ≠ none → t.sc.state.cyclesRun = true ∧ t.ct.phase = .slots ∧ t.lc.crc ≠ none) :
    t.LineLawful where
  dominant := hl.dominant
  recessive := hl.recessive
  reading := hl.reading
  claim := by rcases hsend with hs | ⟨hs, -⟩ <;> simp [hs, hframe]
  slot := by rcases hsend with hs | ⟨hs, -⟩ <;> simp [hs, hframe]
  standing := hstand
  opening hs := by
    rcases hsend with hn | ⟨-, hphase, hrole⟩
    · simp [hn] at hs
    · exact ⟨hphase, hrole⟩
  items f hf := by simp [hframe] at hf
  frame hf := absurd hframe hf
  receiving := hrecv
  overhearing ho := absurd hover ho
  configured _ := himage
  apart ho := by simp [hline] at ho

/-- A station off the line. -/
theorem ofApart (hl : t.lc.InRange) (hconf : t.sc.state ≠ .config → t.sc.image.isSome = true)
    (hframe : t.fb.transmission = none) (hover : t.lc.overheard = none)
    (hapart : t.ct.phase = .stopped ∧ t.lc.drive = .released ∧ t.lc.sending = .nothing ∧ t.lc.arbitration = .outside ∧
      t.lc.heldMismatch = false ∧ t.lc.crc = none ∧ t.lc.reception = none ∧ t.lc.reading = none) : t.LineLawful := by
  have ⟨_, _, hsend, harb, _, _, hrecv, _⟩ := hapart
  exact {
    dominant := hl.dominant
    recessive := hl.recessive
    reading := hl.reading
    claim := by simp [hsend, hframe]
    slot := by simp [hsend, hframe]
    standing := fun hs => by simp [harb] at hs
    opening := fun hs => by simp [hsend] at hs
    items := fun f hf => by simp [hframe] at hf
    frame := fun hf => absurd hframe hf
    receiving := fun hr => absurd hrecv hr
    overhearing := fun ho => absurd hover ho
    configured := hconf
    apart := fun _ => hapart }

/-! ## What the law does not look at -/

/-- The line, the frame and the timer as they were, the station moved by count checks alone. -/
theorem shift (h : s.LineLawful) (hshift : s.Shifts t) (hct : t.ct = s.ct) (hlc : t.lc = s.lc)
    (hfb : t.fb.transmission = s.fb.transmission) (hjudged : s.fb.transmission ≠ none → t.slot.judged = s.slot.judged) :
    t.LineLawful := by
  have hpayload : t.payload = s.payload := by unfold State.payload; rw [hshift.image]
  have hstate := hshift.moves.eq_or_cyclesRun
  have hrun : s.sc.state.cyclesRun = true → t.sc.state.cyclesRun = true := hshift.cyclesRun
  exact {
    dominant := hlc ▸ h.dominant
    recessive := hlc ▸ h.recessive
    reading := hlc ▸ h.reading
    claim := by rw [hlc, hfb]; exact h.claim
    slot := by rw [hlc, hfb]; exact h.slot
    standing := hlc ▸ h.standing
    opening := by rw [hlc, hct]; exact h.opening
    items := by rw [hfb, hpayload]; exact h.items
    frame := fun hf => by
      rw [hfb] at hf
      obtain ⟨hcycles, hphase, hslot, hj, hcrc, hrecv⟩ := h.frame hf
      rw [hct, hlc]
      exact ⟨hrun hcycles, hphase, hslot, (hjudged hf).trans hj, hcrc, hrecv⟩
    receiving := fun hr => by
      rw [hlc] at hr
      obtain ⟨hcycles, hphase, hcrc⟩ := h.receiving hr
      rw [hct, hlc]
      exact ⟨hrun hcycles, hphase, hcrc⟩
    overhearing := by rw [hlc, hfb]; exact h.overhearing
    configured := fun hs => by
      rw [hshift.image]
      refine h.configured fun hc => ?_
      rcases hstate with heq | ⟨hcycles, -⟩
      · exact hs (heq.trans hc)
      · simp [hc, StationState.cyclesRun] at hcycles
    apart := fun ho => by
      rcases hstate with heq | ⟨-, hcycles⟩
      · rw [heq] at ho
        rw [hct, hlc]
        exact h.apart ho
      · rw [(StationState.onLine_of_cyclesRun hcycles).1] at ho
        cases ho }

theorem same (h : s.LineLawful) (hsc : t.sc = s.sc) (hct : t.ct = s.ct) (hlc : t.lc = s.lc)
    (hfb : t.fb.transmission = s.fb.transmission) (hjudged : t.slot.judged = s.slot.judged) : t.LineLawful :=
  h.shift (.of_sc hsc) hct hlc hfb fun _ => hjudged

/-- What the judgement leaves. -/
theorem cedes {n : Nat} (h : s.LineLawful) (hc : s.Cedes n t) (hct : t.ct = s.ct) (hlc : t.lc = s.lc) : t.LineLawful :=
  h.shift hc.shifts hct hlc hc.transmission fun _ => by rw [hc.slot]

/-- The timer's fields that the law does not name. -/
theorem timer (h : s.LineLawful) {ct : CycleTimer} (hphase : ct.phase = s.ct.phase) (hrole : ct.role = s.ct.role)
    (hslot : s.ct.slotIndex ≠ none → ct.slotIndex ≠ none) : ({ s with ct := ct } : State).LineLawful :=
  { h with
    opening := by rw [hphase, hrole]; exact h.opening
    frame := fun hf => by
      obtain ⟨hcycles, hp, hs, hrest⟩ := h.frame hf
      exact ⟨hcycles, hphase.trans hp, hslot hs, hrest⟩
    receiving := by rw [hphase]; exact h.receiving
    apart := by rw [hphase]; exact h.apart }

/-- Another state of the same kind: cycles run before and after. -/
theorem state (h : s.LineLawful) (hs : s.sc.state.cyclesRun = true) {sc : StationController}
    (himage : sc.image = s.sc.image) (hrun : sc.state.cyclesRun = true) : ({ s with sc := sc } : State).LineLawful :=
  { h with
    items := by
      have hpayload : ({ s with sc := sc } : State).payload = s.payload := by unfold State.payload; rw [himage]
      rw [hpayload]
      exact h.items
    frame := fun hf => ⟨hrun, (h.frame hf).2⟩
    receiving := fun hr => ⟨hrun, (h.receiving hr).2⟩
    configured := fun _ => himage ▸ h.configured (StationState.ne_config_of_cyclesRun hs)
    apart := fun ho => by
      rw [(StationState.onLine_of_cyclesRun hrun).1] at ho
      cases ho }

/-! ## The own frame -/

/-- The end of an own frame: the line is released, and a reception record may stand. -/
theorem endFrame (h : s.LineLawful) {f : TxFrame} (hf : s.fb.transmission = some f) {lc : LineController}
    (hl : lc.InRange) (hsend : lc.sending = .nothing) (hstand : lc.arbitration ≠ .inside) (hover : lc.overheard = none)
    (hrecv : lc.reception ≠ none → lc.crc ≠ none) (own : OwnOutcome) :
    ({ s.endFrame own with lc := lc } : State).LineLawful := by
  obtain ⟨hcycles, hphase, -⟩ := h.frame (by simp [hf])
  exact ofListening hl (StationState.onLine_of_cyclesRun hcycles).1
    (h.configured (StationState.ne_config_of_cyclesRun hcycles)) rfl hover (.inl hsend) (fun hs => absurd hs hstand)
    fun hr => ⟨hcycles, hphase, hrecv hr⟩

theorem endFrameReleased (h : s.LineLawful) {f : TxFrame} (hf : s.fb.transmission = some f) (own : OwnOutcome) :
    (s.endFrame own).LineLawful :=
  h.endFrame hf (lc := s.lc.release) h.inRange.release rfl nofun rfl (fun hr => absurd rfl hr) own

theorem endFrameBeaten (h : s.LineLawful) {f : TxFrame} (hf : s.fb.transmission = some f) (k : Nat)
    (heard : Option Reception) (bs : List Byte) (own : OwnOutcome) :
    ({ s.endFrame own with lc := s.lc.release.hearOn k heard bs } : State).LineLawful :=
  h.endFrame hf (lc := s.lc.release.hearOn k heard bs) (h.inRange.release.congr rfl rfl rfl) rfl nofun rfl (fun _ => nofun) own

theorem counters (h : s.LineLawful) (c : Counters) : ({ s with counters := c } : State).LineLawful :=
  h.same rfl rfl rfl rfl rfl

theorem countFormat (h : s.LineLawful) : s.countFormat.LineLawful := h.counters _

theorem countCrc (h : s.LineLawful) : s.countCrc.LineLawful := h.counters _

theorem frameDone (h : s.LineLawful) {f : TxFrame} (hf : s.fb.transmission = some f) (slot : Nat) :
    (s.frameDone slot f).LineLawful := by
  unfold State.frameDone
  extract_lets fb t u v
  obtain ⟨hsc, hslot, hfb, -⟩ := State.OwnSlotsLawful.itemsSent_same t f.items
  have hct : u.ct = s.ct := foldl_keeps _ State.ct (by simp) _ t
  have hlc : u.lc = s.lc := foldl_keeps _ State.lc (by simp) _ t
  have hframe : u.fb.transmission = s.fb.transmission := by rw [hfb]
  have hu : u.LineLawful := h.same hsc hct hlc hframe (congrArg SlotReport.judged hslot)
  have hfu : u.fb.transmission = some f := hframe.trans hf
  have hset : (u.setFailures slot 0).LineLawful := hu.cedes (.setFailures u slot 0) (by simp) (by simp)
  have hv : v.LineLawful := hset.endFrameReleased (f := f) (by simpa using hfu) _
  split
  · exact hv.cedes (.releaseOwn v slot) (by simp) (by simp)
  · exact hv

/-- What a failed frame's items leave of the line. -/
theorem itemsFailed (h : s.LineLawful) (items : List TxItem) : (s.itemsFailed items).LineLawful :=
  h.same (by simp) (by simp) (by simp) (by simp) (by simp)

theorem staging (h : s.LineLawful) (l : List Staged) : ({ s with fb := { s.fb with staging := l } } : State).LineLawful :=
  h.same rfl rfl rfl rfl rfl

theorem frameBroken (h : s.LineLawful) {f : TxFrame} (hf : s.fb.transmission = some f) (slot : Nat) :
    (s.frameBroken slot f).LineLawful := by
  unfold State.frameBroken
  extract_lets fb t u v
  have hu : u.LineLawful := (h.staging (stagingKept s.fb.staging)).itemsFailed f.items
  have hfu : u.fb.transmission = some f := by simpa [u, t, fb] using hf
  have hv : v.LineLawful ∧ v.fb.transmission = some f := by
    simp only [v]
    split
    · exact ⟨hu.cedes (.setFailures u slot _) (by simp) (by simp), by simpa using hfu⟩
    · exact ⟨hu, hfu⟩
  exact endFrameReleased (s := v.countOwnFailure) (hv.1.counters _) hv.2 _

theorem frameBeaten (h : s.LineLawful) {f : TxFrame} (hf : s.fb.transmission = some f) (slot : Nat) :
    (s.frameBeaten slot f).LineLawful := by
  unfold State.frameBeaten
  extract_lets fb t u v
  have ht : (t.itemsFailed f.items).LineLawful := (h.staging (stagingKept s.fb.staging)).itemsFailed f.items
  have hv : v.LineLawful := ht.endFrameBeaten (f := f) (by simpa [t, fb] using hf) slot s.lc.overheard [] _
  exact hv.cedes (.loseOwn v slot) (by simp) (by simp)

/-! ## The judgement and reception -/

/-- The verdict moves the station by count checks and leaves the frame. -/
theorem judge (h : s.LineLawful) (hfb : s.fb.transmission = none) : s.judge.LineLawful :=
  h.shift (.judge s) (by simp) (by simp) s.judge_transmission fun hf => absurd hfb hf

theorem judgeLate (h : s.LineLawful) (hfb : s.fb.transmission = none) : s.judgeLate.LineLawful := by
  unfold State.judgeLate
  split
  · exact h.judge hfb
  · exact h

/-- A reception ends where no own frame is in transmission. -/
theorem endReception (h : s.LineLawful) (hfb : s.fb.transmission = none) (slot : SlotReport) :
    ({ s with slot := slot, lc := s.lc.endReception } : State).LineLawful :=
  { h with
    standing := nofun
    frame := fun hf => absurd hfb hf
    receiving := fun hr => absurd rfl hr
    apart := fun ho => by
      obtain ⟨hphase, hdrive, hsend, -, hheld, -, -, hread⟩ := h.apart ho
      exact ⟨hphase, hdrive, hsend, rfl, hheld, rfl, rfl, hread⟩ }

theorem note (h : s.LineLawful) (hfb : s.fb.transmission = none) (f : Finding) : (s.note f).LineLawful :=
  h.endReception hfb _

theorem frameLost (h : s.LineLawful) (hfb : s.fb.transmission = none) : s.frameLost.LineLawful :=
  (h.countFormat.note hfb _).judgeLate hfb

/-- A station that leaves the line. -/
theorem stoodOff (h : s.LineLawful) (hs : s.sc.state ≠ .config) {lc : LineController} (hd : lc.dominantRun ≤ 40)
    (hlc : lc = { s.lc.release with dominantRun := lc.dominantRun, recessiveRun := 0, reading := none })
    (hsc : t.sc.image = s.sc.image) (hct : t.ct.phase = .stopped)
    (hfb : t.fb.transmission = none) (ht : t.lc = lc) : t.LineLawful := by
  have hrange : lc.InRange := ⟨hd, by rw [hlc]; exact Nat.zero_le _, by rw [hlc]; nofun⟩
  rw [← ht] at hlc hrange
  refine ofApart hrange (fun _ => hsc ▸ h.configured hs) hfb (by rw [hlc]; rfl) ⟨hct, ?_⟩
  rw [hlc]
  exact ⟨rfl, rfl, rfl, rfl, rfl, rfl, rfl⟩

theorem enterHalted (h : s.LineLawful) (hs : s.sc.state ≠ .config) (reason : FaultReason) :
    (s.enterHalted reason).LineLawful :=
  h.stoodOff hs (lc := (s.enterHalted reason).lc) h.dominant rfl rfl rfl rfl rfl

theorem takeValid (h : s.LineLawful) (hl : s.listens = true) (f : Finding) (bs : List Byte) :
    (s.takeValid f bs).LineLawful := by
  obtain ⟨hrun, -, -, -, -, hfb, -⟩ := State.listens_iff.1 hl
  have hs := StationState.ne_config_of_cyclesRun hrun
  unfold State.takeValid
  split
  · next r c =>
    split
    · exact h.enterHalted hs _
    · have hclaim : (s.takeClaim r).LineLawful := h.same (by simp) (by simp) (by simp) (by simp) (by simp)
      exact (hclaim.note (by simpa using hfb) _).judgeLate (by simpa using hfb)
  · next z =>
    split
    · split
      · exact h.enterHalted hs _
      · exact h
    · have hears := State.Hears.takeFrame (s.note (.slotFrame z)) z bs
      obtain ⟨rs, hrs⟩ := hears.slot
      refine ((h.note hfb _).same hears.sc hears.ct hears.lc hears.transmission ?_).judgeLate ?_
      · rw [hrs]
      · exact hears.transmission.trans hfb
  · exact h

theorem receive (h : s.LineLawful) (hl : s.listens = true) (bs : List Byte) (framingError : Bool) :
    (s.receive bs framingError).LineLawful := by
  have hfb := (State.listens_iff.1 hl).2.2.2.2.2.1
  unfold State.receive
  split
  · exact h
  · split
    · exact h.takeValid hl _ bs
    · exact (h.countCrc.note hfb _).judgeLate hfb
    · split
      · exact frameLost (s := { s with slot := { s.slot with swallow := true } }) (h.same rfl rfl rfl rfl rfl) hfb
      · exact h.frameLost hfb

/-! ## The openings -/

/-- The station begins to take part in an opening. -/
theorem participates (h : s.LineLawful) (hs : s.sc.state = .listening ∨ s.sc.state.cyclesRun = true)
    (hfb : s.fb.transmission = none) (proposal : Cycle) {position : Nat} (hp : position ≤ 40) (slot : SlotReport) :
    ({ s with ct := s.ct.participate proposal position, lc := s.lc.pulse position, slot := slot } : State).LineLawful := by
  have hline : s.sc.state.onLine = true := by
    rcases hs with hs | hs
    · rw [hs]; rfl
    · exact (StationState.onLine_of_cyclesRun hs).1
  exact ofListening (h.inRange.pulse hp) hline (h.configured (StationState.ne_config_of_onLine hline)) hfb rfl
    (.inr ⟨rfl, rfl, rfl⟩) nofun fun hr => absurd rfl hr

/-- The cycle timer runs only where the station is on the line. -/
theorem onLine_of_phase (h : s.LineLawful) (hp : s.ct.phase ≠ .stopped) : s.sc.state.onLine = true := by
  by_contra ho
  exact hp (h.apart (by simpa using ho)).1

/-- In an opening no frame is received. -/
theorem reception_none (h : s.LineLawful) (hp : s.ct.phase ≠ .slots) : s.lc.reception = none := by
  by_contra hr
  exact hp (h.receiving hr).2.1

theorem finishOpening (h : s.LineLawful) (himage : s.sc.image.isSome = true) (hline : s.sc.state.onLine = true)
    (hfb : s.fb.transmission = none) (o : Opening) : (s.finishOpening o).LineLawful := by
  unfold State.finishOpening
  extract_lets deadlines ob t u v
  have hv : v.sc = s.sc ∧ v.lc = s.lc.release.fieldEnd o.shapeDamaged ∧ v.fb = s.fb := by
    simp only [v]
    split <;> simp [u, t]
  have hstate : (v.learnAt s.ct.role o.backward).sc.state.onLine = true ∧
      (v.learnAt s.ct.role o.backward).sc.image = v.sc.image ∧
      (v.learnAt s.ct.role o.backward).fb.transmission = v.fb.transmission := by
    have hvline : v.sc.state.onLine = true := hv.1 ▸ hline
    unfold State.learnAt
    split
    · exact ⟨rfl, rfl, rfl⟩
    · split
      · refine ⟨?_, rfl, rfl⟩
        show StationState.onLine (if v.sc.talkIntent then .claiming else .quiet) = true
        split <;> rfl
      · exact ⟨hvline, rfl, rfl⟩
    all_goals exact ⟨hvline, rfl, rfl⟩
  have hlc : (v.learnAt s.ct.role o.backward).lc = { s.lc.release with
      dominantRun := if o.shapeDamaged then s.lc.dominantRun else 0 } := by
    rw [(State.learnAt_frame ..).2.2.2.2.2.2.2.1, hv.2.1, LineController.fieldEnd_eq]
    rfl
  refine ofListening ?_ hstate.1 ?_ ?_ ?_ (.inl ?_) ?_ ?_
  · rw [(State.learnAt_frame ..).2.2.2.2.2.2.2.1, hv.2.1]
    exact h.inRange.release.fieldEnd _
  · rw [hstate.2.1, hv.1]
    exact himage
  · rw [hstate.2.2, hv.2.2]
    exact hfb
  all_goals rw [hlc]
  · rfl
  · rfl
  · nofun
  · exact fun hr => absurd rfl hr

theorem endShape (h : s.LineLawful) {o : Opening} (hphase : s.ct.phase = .opening) (shape : Byte) :
    (s.endShape o shape).LineLawful := by
  have hline := h.onLine_of_phase (by simp [hphase])
  have hs := StationState.ne_config_of_onLine hline
  unfold State.endShape
  split
  · have hcounted : (if o.numberDamaged then s.countDamagedOpening else s).LineLawful := by
      split
      · exact h.counters _
      · exact h
    refine hcounted.enterHalted ?_ _
    split <;> exact hs
  · split
    · refine finishOpening (s := s.resync .backward (.strayOpening .backward s.ct.cycle (some o.number))) ?_
        (h.configured hs) rfl rfl o
      exact ofListening (t := s.resync .backward (.strayOpening .backward s.ct.cycle (some o.number)))
        h.inRange.release rfl (h.configured hs) rfl rfl (.inl rfl) nofun fun hr => absurd rfl hr
    · exact h.finishOpening (h.configured hs) hline (h.transmission_none_of_phase (by simp [hphase])) o

theorem damageOpening (h : s.LineLawful) : s.damageOpening.LineLawful := by
  have hagain : s.sc.state = .listening ∧ s.ct.role = .observer → s.listenAgain.LineLawful := fun ⟨hl, hrole⟩ => by
    have hrun : s.sc.state.cyclesRun = false := by rw [hl]; rfl
    have hfb := h.transmission_none_of_state hrun
    have hsend := h.sending_nothing hfb (.inr (by simp [hrole]))
    have hline : s.sc.state.onLine = true := by rw [hl]; rfl
    exact ofListening (t := s.listenAgain) h.inRange hline (h.configured (by simp [hl])) hfb (h.overheard_none hfb)
      (.inl hsend) h.standing fun hr => absurd (h.receiving hr).1 (by simp [hrun])
  unfold State.damageOpening
  split
  · split
    · exact h
    · split
      · exact h
      all_goals
        split
        · next hl => exact hagain hl
        · exact h.timer (ct := { s.ct with opening := _ }) rfl rfl id
  · exact h

theorem recognizePulse (h : s.LineLawful) (run : Nat) (inWindow : Bool) : (s.recognizePulse run inWindow).LineLawful := by
  unfold State.recognizePulse
  split
  · exact h
  · split
    · next hw =>
      have hrun : s.sc.state.cyclesRun = false := by rw [hw.1]; rfl
      have hfb := h.transmission_none_of_state hrun
      have hsend := h.sending_nothing hfb (.inl (by simp [hw.2]))
      have hline : s.sc.state.onLine = true := by rw [hw.1]; rfl
      exact ofListening (t := { s with ct := s.ct.observe run, lc := s.lc.runEnd }) h.inRange.runEnd hline
        (h.configured (by simp [hw.1])) hfb (h.overheard_none hfb) (.inl hsend) h.standing
        fun hr => absurd (h.receiving hr).1 (by simp [hrun])
    · split
      · next hstray =>
        have hrun : s.sc.state.cyclesRun = true := (Bool.and_eq_true_iff.1 hstray.1).1
        exact ofListening (t := { s.strayPulse run with lc := (s.strayPulse run).lc.runEnd }) h.inRange.release.runEnd rfl
          (h.configured (StationState.ne_config_of_cyclesRun hrun)) rfl rfl (.inl rfl) nofun fun hr => absurd rfl hr
      · split
        · exact { h with dominant := Nat.zero_le _ }
        · exact h

theorem numberEnd (h : s.LineLawful) (hphase : s.ct.phase = .opening) (o : Opening) (read : BitVec 32) (mismatch : Bool) :
    (s.endNumberField o read mismatch).LineLawful := by
  have hline := h.onLine_of_phase (by simp [hphase])
  have hfb := h.transmission_none_of_phase (by simp [hphase])
  refine ofListening (t := s.endNumberField o read mismatch) ?_ hline (h.configured (StationState.ne_config_of_onLine hline))
    hfb ?_ ?_ nofun fun hr => absurd ?_ hr
  · exact (h.inRange.fieldEnd o.numberDamaged).congr rfl rfl rfl
  · exact (congrArg LineController.overheard (s.lc.fieldEnd_eq o.numberDamaged)).trans (h.overheard_none hfb)
  · simp only [State.endNumberField]
    split
    · next hw => exact .inr ⟨rfl, hphase, by simpa using (Bool.and_eq_true_iff.1 hw).1⟩
    · exact .inl rfl
  · exact (congrArg LineController.reception (s.lc.fieldEnd_eq o.numberDamaged)).trans (h.reception_none (by simp [hphase]))

/-! ## The slots -/

/-- The own frame of the slot in progress begins. -/
theorem sends (h : s.LineLawful) (hrun : s.sc.state.cyclesRun = true) (hphase : s.ct.phase = .slots)
    (hslot : s.ct.slotIndex ≠ none) (hjudged : s.slot.judged = false) {f : TxFrame} {what : Sending}
    (hwhat : (what = .claim ∧ ∃ r, f.kind = .claim r) ∨ (what = .slot ∧ ∃ n, f.kind = .slot n))
    (hitems : itemsSize f.items ≤ s.payload) (staging : List Staged) :
    ({ s with fb := { staging := staging, transmission := some f }, lc := s.lc.send what } : State).LineLawful where
  dominant := h.dominant
  recessive := h.recessive
  reading := h.reading
  claim := by
    simp only [LineController.send, Option.some.injEq]
    rcases hwhat with ⟨rfl, r, hr⟩ | ⟨rfl, n, hn⟩
    · simp [hr]
    · simp [hn]
  slot := by
    simp only [LineController.send, Option.some.injEq]
    rcases hwhat with ⟨rfl, r, hr⟩ | ⟨rfl, n, hn⟩
    · simp [hr]
    · simp [hn]
  standing := nofun
  opening hs := by
    have hs : what = .opening := hs
    rcases hwhat with ⟨rfl, -⟩ | ⟨rfl, -⟩ <;> cases hs
  items g hg := by cases hg; exact hitems
  frame _ := ⟨hrun, hphase, hslot, hjudged, nofun, rfl⟩
  receiving hr := absurd rfl hr
  overhearing _ := nofun
  configured := h.configured
  apart ho := by
    rw [(StationState.onLine_of_cyclesRun hrun).1] at ho
    cases ho

theorem offers (h : s.LineLawful) (rs : List EventRecord) : (s.offers rs).LineLawful := h.same rfl rfl rfl rfl rfl

theorem claimPolicy (h : s.LineLawful) (hrun : s.sc.state.cyclesRun = true) (hphase : s.ct.phase = .slots)
    (hslot : s.ct.slotIndex ≠ none) (hjudged : s.slot.judged = false) : s.claimPolicy.1.LineLawful := by
  have hs1 : ∀ b : Bool, ({ s with st := { s.st with reportArmed := b } } : State).LineLawful := fun b =>
    h.same rfl rfl rfl rfl rfl
  have hfix : ∀ (t : State), t.LineLawful → t.sc = s.sc → t.ct = s.ct → t.slot = s.slot → ∀ r, (t.fixClaim r).LineLawful :=
    fun t ht hsc hct hsl r => ht.sends (hsc ▸ hrun) (hct ▸ hphase) (hct ▸ hslot) (hsl ▸ hjudged) (.inl ⟨rfl, r, rfl⟩)
      (Nat.zero_le _) _
  unfold State.claimPolicy
  dsimp only
  split
  · split
    · split
      · exact hfix s h rfl rfl rfl _
      · exact hfix _ (hs1 true) rfl rfl rfl _
    · split
      · exact hs1 false
      · exact h
  · split
    · exact h
    · exact hs1 true

theorem fixSlotFrame (h : s.LineLawful) (hrun : s.sc.state.cyclesRun = true) (hphase : s.ct.phase = .slots)
    (hslot : s.ct.slotIndex ≠ none) (hjudged : s.slot.judged = false) (slot : Nat) : (s.fixSlotFrame slot).LineLawful := by
  obtain ⟨im, him⟩ := Option.isSome_iff_exists.1 (h.configured (StationState.ne_config_of_cyclesRun hrun))
  obtain ⟨first, cancels, cues, hpass⟩ := s.frameItems_passes slot (by have := (State.payload_ge him).2; omega)
  have hfits := hpass.fits
  rw [← hpass.items] at hfits
  exact (h.sends hrun hphase hslot hjudged (f := { kind := .slot slot, cycleCheck := s.ct.cycle.setWidth 8, items := s.frameItems slot })
    (.inr ⟨rfl, slot, rfl⟩) hfits (markInFlight s.ackLimit s.fb.staging)).same rfl rfl rfl rfl rfl

theorem beginSlot (h : s.LineLawful) (hslot : s.nextSlot = some slot) : (s.beginSlot slot).LineLawful := by
  obtain ⟨hrun, hphase, hplace⟩ := State.nextSlot_spec hslot
  have hfb : s.fb.transmission = none := by
    by_contra hf
    obtain ⟨-, -, hindex, hjudged, -⟩ := h.frame hf
    rcases hplace with ⟨hn, -⟩ | ⟨k, -, hj, -⟩
    · exact hindex hn
    · simp [hj] at hjudged
  unfold State.beginSlot
  extract_lets timer blank t work claim reported
  have ht : t.LineLawful := by
    refine ofListening (h.inRange.congr rfl rfl rfl) (StationState.onLine_of_cyclesRun hrun).1
      (h.configured (StationState.ne_config_of_cyclesRun hrun)) hfb rfl (.inl rfl) nofun fun hr => ⟨hrun, hphase, ?_⟩
    rcases s.lc.turn_reception slot with ⟨hn, -⟩ | ⟨r, hr', -, -, hcrc⟩
    · exact absurd hn hr
    · exact fun hc => (h.receiving (by simp [hr'])).2.2 (hcrc.symm.trans hc)
  have hwork : work.1.LineLawful := ht.same rfl rfl rfl rfl rfl
  have hclaim : claim.1.LineLawful := hwork.claimPolicy hrun hphase nofun rfl
  have hreported : reported.LineLawful := hwork.offers _
  split
  · exact hclaim.same (by simp) (by simp) (by simp) (by simp) (by simp)
  · split
    · exact hreported.fixSlotFrame hrun hphase nofun rfl slot
    · exact hreported

theorem endSlot (h : s.LineLawful) (hrun : s.sc.state.cyclesRun = true)
    (hphase : s.ct.phase = .slots) (hfb : s.fb.transmission = none) (slot : Nat) (late : Option (List Byte)) :
    (s.endSlot slot late).LineLawful := by
  have hmoved := h.timer (ct := { s.ct with position := some (s.slotStart slot + frameRegion s.payload) }) rfl rfl id
  have hquiet := (hmoved.endReception hfb s.slot).judge hfb
  unfold State.endSlot
  dsimp only
  split
  · split
    · have hsend := h.sending_nothing hfb (.inl (by simp [hphase]))
      exact ofListening (h.inRange.congr rfl rfl rfl) (StationState.onLine_of_cyclesRun hrun).1
        (h.configured (StationState.ne_config_of_cyclesRun hrun)) hfb (h.overheard_none hfb) (.inl hsend) nofun
        fun _ => ⟨hrun, hphase, nofun⟩
    · exact hquiet
  · exact hquiet

end State.LineLawful

/-! ## The bit time (R123, R124, R132) -/

section BitTime

variable {s : State}

theorem State.sentAt_of_nothing (h : s.lc.sending = .nothing) (p : Nat) : s.sentAt p = none := by
  simp only [State.sentAt, h]

/-- R132: a byte start edge opens a record only where cycles run and nothing is sent or received. -/
theorem State.frameStart_spec {k : Nat} (h : s.frameStart = some k) :
    s.sc.state.cyclesRun = true ∧ s.ct.phase = .slots ∧ s.fb.transmission = none ∧ s.lc.reception = none := by
  unfold State.frameStart at h
  split at h
  · next hg => simpa [and_assoc] using hg
  · cases h

/-- R132, R133: what one level read makes of the record and the accumulator. -/
theorem State.assemble_cases (s : State) (read : Bool) :
    ((s.assemble read).reception = s.lc.reception ∧ (s.assemble read).crc = s.lc.crc) ∨
    ((s.assemble read).crc ≠ none ∧ (s.lc.reception ≠ none ∨ s.frameStart ≠ none)) := by
  have hheard := s.lc.readLevel_fst read
  have hreception : (s.lc.readLevel read).1.reception = s.lc.reception := by rw [hheard]
  have hcrc : (s.lc.readLevel read).1.crc = s.lc.crc := by rw [hheard]
  unfold State.assemble
  dsimp only
  split
  · next b _ =>
    cases hr : s.lc.reception with
    | none =>
      have htake := ((s.lc.readLevel read).1.takeByte_reception s.payload b).1 (hreception.trans hr)
      rw [htake]
      exact .inl ⟨hreception.trans hr, hcrc⟩
    | some r =>
      have htake := ((s.lc.readLevel read).1.takeByte_reception s.payload b).2 r (hreception.trans hr)
      exact .inr ⟨by rw [htake.2]; nofun, .inl nofun⟩
  · split
    · split
      · next k hk => exact .inr ⟨nofun, .inr (by simp [hk])⟩
      · exact .inl ⟨hreception, hcrc⟩
    · exact .inl ⟨hreception, hcrc⟩

theorem LineController.sendBit_crc {l : LineController} (h : l.crc ≠ none) (b : Option SentBit) (inField read : Bool) :
    (l.sendBit b inField read).crc ≠ none := by
  unfold sendBit
  split
  · exact h
  · dsimp only
    split
    · simpa using h
    · exact h

/-- R123: the accumulator of a bit time on the line, where LC has one. -/
theorem State.lineBit_crc (hline : s.sc.state.onLine = true) {read : Bool} (h : (s.assemble read).crc ≠ none) :
    (s.lineBit read).crc ≠ none := by
  have hhear : (s.hear read).crc ≠ none := by rwa [(State.hear_frame s read).2.2.2.2.2.2.2.2]
  unfold State.lineBit
  rw [if_pos hline]
  split
  · rw [LineController.sample_eq]
    exact hhear
  · rw [LineController.sample_eq]
    exact (show ((s.hear read).sendBit _ _ read).crc ≠ none from LineController.sendBit_crc hhear _ _ read)

/-- R123: where a station stands inside an arbitration field after a bit time, it sends. -/
theorem State.lineBit_inside (hline : s.sc.state.onLine = true) {read : Bool}
    (hs : s.lc.arbitration = .inside → s.lc.sending ≠ .nothing) (h : (s.lineBit read).arbitration = .inside) :
    s.lc.sending ≠ .nothing := by
  unfold State.lineBit at h
  rw [if_pos hline] at h
  split at h
  · rw [LineController.sample_eq] at h
    exact hs ((State.hear_frame s read).2.2.1.symm.trans h)
  · rw [LineController.sample_eq] at h
    intro hn
    have hbit := (LineController.startBit_inside h).2.1
    rw [State.sentAt_of_nothing hn] at hbit
    cases hbit

/-- A bit time keeps the line lawful. -/
theorem State.LineLawful.tick (h : s.LineLawful) : s.tick.LineLawful := by
  generalize hread : Config.lineDominant s.ticks = read
  have hlc : s.tick.lc = s.lineBit read := by rw [State.tick, hread]
  by_cases hline : s.sc.state.onLine = true
  · obtain ⟨hsend, hdom, hrec, hreading, hreception, hover⟩ := State.lineBit_onLine hline read
    have hcrc : (s.assemble read).reception ≠ none → (s.lineBit read).crc ≠ none := fun hr => by
      refine State.lineBit_crc hline ?_
      rcases s.assemble_cases read with ⟨heq, hc⟩ | ⟨hc, -⟩
      · rw [hc]
        exact (h.receiving (heq ▸ hr)).2.2
      · exact hc
    have hrecv : (s.lineBit read).reception = (s.assemble read).reception :=
      hreception.trans (State.hear_frame s read).2.2.2.2.2.2.2.1
    have hopened : (s.assemble read).reception ≠ none → s.lc.reception ≠ none ∨ s.frameStart ≠ none := fun hr => by
      rcases s.assemble_cases read with ⟨heq, -⟩ | ⟨-, ho⟩
      · exact .inl (heq ▸ hr)
      · exact ho
    exact {
      dominant := by
        rw [hlc, hdom]
        split <;> omega
      recessive := by
        rw [hlc, hrec]
        split <;> omega
      reading := fun levels hl => by
        rw [hlc, hreading] at hl
        exact s.lc.readLevel_length read levels hl
      claim := by rw [hlc, hsend]; exact h.claim
      slot := by rw [hlc, hsend]; exact h.slot
      standing := fun hs => by
        rw [hlc] at hs ⊢
        rw [hsend]
        exact State.lineBit_inside hline h.standing hs
      opening := by rw [hlc, hsend]; exact h.opening
      items := h.items
      frame := fun hf => by
        obtain ⟨hrun, hphase, hindex, hjudged, hcrc', hnone⟩ := h.frame hf
        have hassemble : (s.assemble read).reception = none ∧ (s.assemble read).crc = s.lc.crc := by
          rcases s.assemble_cases read with ⟨heq, hc⟩ | ⟨-, ho⟩
          · exact ⟨heq.trans hnone, hc⟩
          · rcases ho with ho | ho
            · exact absurd hnone ho
            · obtain ⟨k, hk⟩ := Option.ne_none_iff_exists'.1 ho
              exact absurd (State.frameStart_spec hk).2.2.1 hf
        rw [hlc]
        exact ⟨hrun, hphase, hindex, hjudged, State.lineBit_crc hline (hassemble.2 ▸ hcrc'), hrecv.trans hassemble.1⟩
      receiving := fun hr => by
        rw [hlc, hrecv] at hr
        rw [hlc]
        rcases hopened hr with ho | ho
        · exact ⟨(h.receiving ho).1, (h.receiving ho).2.1, hcrc hr⟩
        · obtain ⟨k, hk⟩ := Option.ne_none_iff_exists'.1 ho
          obtain ⟨hrun, hphase, -⟩ := State.frameStart_spec hk
          exact ⟨hrun, hphase, hcrc hr⟩
      overhearing := fun ho hf => by
        rw [hlc, hover, (s.hear_eq read).2.1 fun f k hfk => by rw [show s.fb.transmission = none from hf] at hfk; cases hfk] at ho
        exact h.overhearing ho hf
      configured := h.configured
      apart := fun ho => by
        rw [show s.tick.sc.state.onLine = true from hline] at ho
        cases ho }
  · have hoff : s.sc.state.onLine = false := by simpa using hline
    have hsampled : (s.lineBit read).InRange ∧ s.lineBit read = { s.lc with
        dominantRun := (s.lineBit read).dominantRun, recessiveRun := (s.lineBit read).recessiveRun } := by
      unfold State.lineBit
      rw [if_neg hline]
      split
      · rw [LineController.sample_eq]
        refine ⟨⟨?_, ?_, h.reading⟩, rfl⟩
        · dsimp only
          split <;> omega
        · dsimp only
          split <;> omega
      · exact ⟨h.inRange, rfl⟩
    obtain ⟨hphase, hapart⟩ := h.apart hoff
    have hfb := h.transmission_none_of_phase (by simp [hphase])
    refine ofApart (hlc ▸ hsampled.1) h.configured hfb ?_ ⟨hphase, ?_⟩
    · rw [hlc, hsampled.2]
      exact h.overheard_none hfb
    · rw [hlc, hsampled.2]
      exact hapart

end BitTime

/-! ## Every row, every step -/

/-- R123, R126: every row keeps the line lawful. -/
theorem rowEffects_line (c : Instr) : RowEffects c fun s t => s.LineLawful → t.LineLawful where
  reset _ s reason _ := .ofApart (t := s.resetCondition reason) ⟨Nat.zero_le _, Nat.zero_le _, nofun⟩ (fun hs => absurd rfl hs) rfl rfl
    ⟨rfl, rfl, rfl, rfl, rfl, rfl, rfl, rfl⟩
  configure _ s p im hc _ h := .ofApart h.inRange (fun _ => rfl) (h.transmission_none_of_state (by rw [hc]; rfl))
    (h.overheard_none (h.transmission_none_of_state (by rw [hc]; rfl))) (h.apart (by rw [hc]; rfl))
  start s im hc him h := by
    have hfb := h.transmission_none_of_state (by rw [hc]; rfl)
    obtain ⟨-, -, hsend, harb, -, -, hrecv, -⟩ := h.apart (by rw [hc]; rfl)
    exact .ofListening (t := s.startUp im) h.inRange rfl (by simp [State.startUp, State.changeState, State.offer, him]) hfb
      (h.overheard_none hfb) (.inl hsend) h.standing fun hr => absurd hrecv hr
  leave s ht h := by
    have hrun := StationState.cyclesRun_of_talking ht
    have hleaving := h.state hrun (sc := { s.sc with talkIntent := false, state := .leaving }) rfl rfl
    have hswept : ((({ s with sc := { s.sc with talkIntent := false } } : State).changeState .leaving .leave).sweepOutbox
        (OutEntry.atLeave s.ob)).LineLawful := hleaving.same (by simp [State.changeState]) (by simp) (by simp) (by simp [State.changeState]) (by simp)
    exact hswept.shift (.checkCounts _) (by simp) (by simp) (State.Cedes.checkCounts _).transmission
      fun _ => by simp
  join s hq h := (h.state (by rw [hq]; rfl) (sc := { s.sc with talkIntent := true, state := .claiming }) rfl rfl).same
    rfl rfl rfl rfl rfl
  submit _ _ _ _ _ _ h := h.same rfl rfl rfl rfl rfl
  cancel s n h := by
    rcases s.cancelSerial_cases n with heq | heq | ⟨-, -, heq | ⟨-, heq⟩⟩ <;> rw [heq]
    · exact h.same (by simp) (by simp) (by simp) (by simp) (by simp)
    · exact h
    · exact h.same rfl rfl rfl rfl rfl
    · exact h.same (by simp) (by simp) (by simp) (by simp) (by simp)
  takeEvents _ _ h := h.same rfl rfl rfl rfl rfl
  zeroCounters _ h := h.counters _
  drive _ _ _ _ _ _ h := h.same rfl rfl rfl rfl rfl
  bind _ _ i _ _ _ h := h.same (by simp) (by simp) (by simp) (by simp) (by simp)
  unbind _ i h := h.same (by simp) (by simp) (by simp) (by simp) (by simp)
  edge _ i h := h.same (by simp) (by simp) (by simp) (by simp) (by simp)
  period _ h := h.same rfl rfl rfl rfl rfl
  expiry s hl hw h := h.participates (.inl hl) (h.transmission_none_of_phase (by simp [hw])) _ (by omega) s.slot
  opens s hw h := by
    have hfb : s.fb.transmission = none := by
      by_contra hf
      have hjudged := (h.frame hf).2.2.2.1
      simp [State.windowOpen, hjudged] at hw
    exact h.participates (.inr (State.windowOpen_cyclesRun hw)) hfb _ (by omega) .blank
  deferred s hl _ _ h := by
    obtain ⟨hrun, -, -, -, -, hfb, -⟩ := State.listens_iff.1 hl
    have hjudged := (h.countFormat.note hfb .invalid).judge hfb
    have hshift : s.Shifts (s.countFormat.note .invalid).judge := (State.Shifts.judge _).after (by simp)
    refine hjudged.participates (.inr (hshift.cyclesRun hrun)) ?_ _ (by omega) .blank
    exact (State.judge_transmission _).trans hfb
  pulseRelease s o _ hphase _ _ h := { h.timer (ct := { s.ct with position := some 12, opening := some { o with stage := .number } })
      rfl rfl id with
    dominant := (s.lc.pulseEnd_frame _ h.dominant).2.2.2
    apart := fun ho => by
      rw [h.onLine_of_phase (by simp [hphase])] at ho
      cases ho }
  noEcho s _ _ hline _ _ _ h := h.stoodOff (StationState.ne_config_of_onLine hline)
    (lc := (s.enterLineFault .noEcho).lc.runEnd) (Nat.zero_le _) rfl rfl rfl rfl rfl
  pulse _ run inWindow h := h.recognizePulse run inWindow
  numberLoss s o _ hphase _ _ h := { h.timer (ct := { s.ct with opening := some { o with lost := true } }) rfl rfl id with
    standing := nofun
    apart := fun ho => by
      rw [h.onLine_of_phase (by simp [hphase])] at ho
      cases ho }
  numberEnd _ o read mismatch _ hphase _ h := h.numberEnd hphase o read mismatch
  shapeEnd _ _ shape _ hphase _ h := h.endShape hphase shape
  damage _ h := h.damageOpening
  slotBegin _ _ hslot h := h.beginSlot hslot
  slotEnd _ slot late _ hrun hphase _ hfb h := h.endSlot hrun hphase hfb slot late
  frameDone _ _ slot hf _ h := h.frameDone hf slot
  frameBroken _ _ slot hf _ h := h.frameBroken hf slot
  frameBeaten _ _ slot hf _ h := h.frameBeaten hf slot
  claimBeaten s _ _ read hf _ h :=
    State.LineLawful.endFrameBeaten (s := s.countClaimLoss) (h.counters _) hf 0 s.lc.overheard read .arbitrationLost
  claimBroken s _ _ hf _ h := State.LineLawful.endFrameReleased (s := s.countOwnFailure) (h.counters _) hf .bitError
  claimDone _ _ _ hf _ h := h.endFrameReleased hf _
  received _ bs framingError hl h := h.receive hl bs framingError
  lostAhead s hl h := by
    have hfb : s.fb.transmission = none := by
      simp only [State.listensAhead, Bool.and_eq_true, Option.isNone_iff_eq_none] at hl
      exact hl.1.2
    exact h.countFormat.endReception hfb _
  frameLost _ hl h := h.frameLost (State.listens_iff.1 hl).2.2.2.2.2.1
  stray _ _ h := h.counters _
  stuck s hline h := h.stoodOff (StationState.ne_config_of_onLine hline)
    (lc := { (s.enterLineFault .stuck).lc with dominantRun := 40 }) (Nat.le_refl 40) rfl rfl rfl rfl rfl
  stuckAgain s hs h := by
    have hfb := h.transmission_none_of_state (by rw [hs]; rfl)
    exact .ofApart ⟨Nat.le_refl _, Nat.zero_le _, h.reading⟩ h.configured hfb (h.overheard_none hfb)
      (h.apart (by rw [hs]; rfl))
  restored s hs h := by
    have hfb := h.transmission_none_of_state (by rw [hs]; rfl)
    obtain ⟨-, -, hsend, harb, -, -, hrecv, -⟩ := h.apart (by rw [hs]; rfl)
    exact .ofListening ⟨Nat.zero_le _, Nat.le_refl 64, h.reading⟩ rfl (h.configured (by simp [hs])) hfb (h.overheard_none hfb)
      (.inl hsend) h.standing fun hr => absurd hrecv hr
  fallingEdge s hs h := by
    have hfb := h.transmission_none_of_state (by rw [hs]; rfl)
    exact .ofApart ⟨Nat.zero_le _, Nat.zero_le _, h.reading⟩ h.configured hfb (h.overheard_none hfb) (h.apart (by rw [hs]; rfl))

/-- Settles O60: every row keeps the line lawful, and so do the bit time and the waiting of commands. -/
theorem stepKeepsLine : Obligations.StepKeepsLine := fun _ _ hst hs =>
  KeptByRows.step
    { port := fun _ _ h => h.same rfl rfl rfl rfl rfl
      hold := fun _ _ h => h.same rfl rfl rfl rfl rfl
      pins := fun _ _ _ h => h.same rfl rfl rfl rfl rfl
      effects := rowEffects_line }
    (fun _ _ h => h.same rfl rfl rfl rfl rfl) (fun _ h => h.tick) hst hs

end Sys2Proof.Machine
end

section
/-! PROOFS. The own frame's outcomes, and the items of a peer's frame in the order in which they are taken. -/

namespace Sys2Proof.Machine

variable {s : State}

/-! ## Items of a peer's frame (R96, R113, R114, R138) -/

theorem Flight.replacedNow_eq (f : Flight) : f.replacedNow = if f = .inFlight then .replaced else f := by
  cases f <;> rfl

/-- R113: a verdict staged in a state that stages, where one of its id and class stands. -/
theorem State.stage_replaces {id : CueId} {v : Verdict} (hs : s.sc.state.stages = true)
    (hany : (s.fb.staging.any fun e => e.keyed id v.kind) = true) :
    s.stage id v = { s with fb := { s.fb with staging := s.fb.staging.map (Staged.renew id v) } } := by
  simp only [State.stage, hs, hany, Bool.not_true, Bool.false_eq_true, if_false, if_true]

/-- R113, R114: where none stands, it is appended, or dropped and counted. -/
theorem State.stage_new {id : CueId} {v : Verdict} (hs : s.sc.state.stages = true)
    (hany : (s.fb.staging.any fun e => e.keyed id v.kind) = false) :
    s.stage id v = if 32 ≤ s.fb.staging.length then s.countAckDropped
      else { s with fb := { s.fb with staging := s.fb.staging ++ [{ id := id, verdict := v, flight := .waiting }] } } := by
  simp only [State.stage, hs, hany, Bool.not_true, Bool.false_eq_true, if_false]

theorem OutEntry.awaits_eq_false {e : OutEntry} {z : Station} (h : ∀ d, e.send = some d → z ∉ d.expected) :
    e.awaits z = false := by
  unfold OutEntry.awaits
  split
  · rfl
  · next d hd => simpa using h d hd

/-- R96: an answer that no open entry awaits is counted and changes nothing else. -/
theorem State.takeAck_stray {z : Station} {n : Serial} {v : Verdict}
    (h : s.ob.find v.kind n = none ∨ (∃ e, s.ob.find v.kind n = some e ∧ ∀ d, e.send = some d → z ∉ d.expected)) :
    s.takeAck z n v = s.countStrayAck := by
  unfold State.takeAck
  rcases h with hnone | ⟨e, he, hout⟩
  · rw [hnone]
  · rw [he]
    exact if_neg (by simp [OutEntry.awaits_eq_false hout])

/-- Settles O41: one equation per item, and one per branch of the staging. -/
theorem itemsDispatched : Obligations.ItemsDispatched := by
  intro s z n id
  refine ⟨fun _ _ _ => rfl, rfl, fun _ _ => rfl, fun _ => rfl, fun v => ⟨fun hs => ?_, fun hs hany => ?_,
    fun hs hany hroom => ?_, fun hs hany hfull => ?_⟩, fun v hstray => State.takeAck_stray hstray⟩
  · simp [State.stage, hs]
  · refine (State.stage_replaces hs hany).trans ?_
    have hrenew : ∀ e : Staged, e.renew id v = if (e.id == id && e.verdict.kind == v.kind) = true then
        { e with verdict := v, flight := if e.flight = .inFlight then .replaced else e.flight } else e := fun e => by
      simp only [Staged.renew, Staged.keyed, Flight.replacedNow_eq]
    rw [funext hrenew]
  · rw [State.stage_new hs hany, if_neg (by omega)]
  · rw [State.stage_new hs hany, if_pos hfull]
    rfl

/-! ## The own claim frame (R116) -/

/-- Settles O39: an own claim frame ends in one of three ways, each with its own row. -/
theorem claimFrameOutcomes : Obligations.ClaimFrameOutcomes := by
  rintro s ⟨kind, check, items⟩ r hf rfl ended
  refine ⟨?_, ?_, fun read => ?_⟩
  · simp only [exec, execClaimCompletes, hf]
    rfl
  · simp only [exec, execClaimBitError, hf]
    rfl
  · simp only [exec, execClaimArbitrationLost, hf]
    rfl

/-! ## The own slot frame completes (R117) -/

theorem State.itemsSent_frame (items : List TxItem) (s : State) :
    (items.foldl State.itemSent s).sc = s.sc ∧ (items.foldl State.itemSent s).ct = s.ct ∧
    (items.foldl State.itemSent s).st = s.st ∧ (items.foldl State.itemSent s).slot = s.slot ∧
    (items.foldl State.itemSent s).fb = s.fb ∧ (items.foldl State.itemSent s).lc = s.lc := by
  refine ⟨?_, ?_, ?_, ?_, ?_, ?_⟩ <;> exact foldl_keeps _ _ (by simp) _ _

theorem State.setFailures_of_entry {slot : Nat} {e : SlotEntry} (h : 1 ≤ slot) (he : s.st.entries[slot - 1]? = some e)
    (n : Nat) : s.setFailures slot n =
      { s with st := { s.st with entries := s.st.entries.set (slot - 1) { e with failures := n } } } := by
  rw [State.setFailures, SlotTable.entry_of_getElem? h he]
  exact congrArg (fun t => ({ s with st := t } : State)) (SlotTable.put_eq h _)

/-- Settles O35: the items touch no slot entry, so a RELEASE frees the entry that stood before them. -/
theorem slotFrameCompletes : Obligations.SlotFrameCompletes := by
  rintro s ⟨kind, check, items⟩ slot e hf rfl hslot he sent released put kept freed
  obtain ⟨hsc, hct, hst, hreport, -, hlc⟩ : sent.sc = s.sc ∧ sent.ct = s.ct ∧ sent.st = s.st ∧ sent.slot = s.slot ∧
    sent.fb = { s.fb with staging := stagingSent s.fb.staging } ∧ sent.lc = s.lc := State.itemsSent_frame items _
  have hreleased : TxFrame.releases { kind := .slot slot, cycleCheck := check, items := items } = released :=
    congrArg items.any (funext fun i => by cases i <;> rfl)
  have hkept : (sent.setFailures slot 0).endFrame (.completed released) = kept := by
    rw [State.setFailures_of_entry hslot (e := e) (by rw [hst]; exact he), hst]
    simp only [State.endFrame, reduceCtorEq, if_false, kept, put]
    rw [hlc, hreport]
  have hrow : exec .frameCompletes s = .next (if released then kept.releaseOwn slot else kept) := by
    rw [← hkept, ← hreleased]
    simp only [exec, execFrameCompletes, hf]
    rfl
  have hview : kept.st.view slot = e.view := SlotTable.view_of_entry (e := { e with failures := 0 })
    (SlotTable.entry_of_getElem? hslot (by rw [List.getElem?_set_self', he]; rfl))
  have hself : kept.self = s.self := congrArg (fun c : StationController => State.self { s with sc := c }) hsc
  refine ⟨fun hrel => ?_, fun hrel hown => ?_, fun hrel hown => ?_⟩
  · rw [hrow, hrel]
    rfl
  · have hfreed : ({ kept with st := kept.st.put slot .free } : State) = freed := by
      rw [SlotTable.put_eq hslot]
      simp only [kept, freed, put, List.set_set]
      rfl
    rw [hrow, if_pos hrel, State.releaseOwn, hview, hself, if_pos hown]
    simp only [hfreed]
    have hcycle : kept.ct.cycle = s.ct.cycle := congrArg CycleTimer.cycle hct
    rw [hcycle]
    rfl
  · rw [hrow, if_pos hrel, State.releaseOwn, hview, hself, if_neg (by simp [hown])]

end Sys2Proof.Machine
end

section
/-! PROOFS. First sends and retries of outbox entries, and the return of the entries of a frame that failed. -/

namespace Sys2Proof.Machine

variable {s : State} {kind : CueKind} {n : Serial} {e x : OutEntry}

/-! ## Entries changed in place (R84) -/

/-- The entry `e` in the place of the one of its kind and serial. -/
def OutEntry.inPlace (kind : CueKind) (n : Serial) (e x : OutEntry) : OutEntry := if x.named kind n then e else x

theorem OutEntry.named_eq_of_key {y : OutEntry} (h : y.key = x.key) (k : CueKind) (m : Serial) :
    y.named k m = x.named k m := by
  simp only [OutEntry.key, Prod.mk.injEq] at h
  simp only [OutEntry.named, h.1, h.2]

theorem OutEntry.key_eq_of_named (h : e.named kind n = true) : e.key = (kind, n) := by
  obtain ⟨hk, hn⟩ := OutEntry.named_iff.1 h
  rw [OutEntry.key, hk, hn]

theorem OutEntry.inPlace_key (he : e.key = (kind, n)) (x : OutEntry) : (e.inPlace kind n x).key = x.key := by
  unfold OutEntry.inPlace
  split
  · next hx => rw [he, OutEntry.key_eq_of_named hx]
  · rfl

theorem Outbox.Lawful.map {o : Outbox} (h : o.Lawful) {g : OutEntry → OutEntry} (hg : ∀ x, (g x).key = x.key) :
    Outbox.Lawful { o with entries := o.entries.map g } where
  fits := by simpa using h.fits
  distinct := by
    have hkeys : ((fun e : OutEntry => (e.cueKind, e.serial)) ∘ g) = fun e => (e.cueKind, e.serial) := funext hg
    rw [List.map_map, hkeys]
    exact h.distinct

theorem Outbox.find_map {o : Outbox} {g : OutEntry → OutEntry} (hg : ∀ x, (g x).key = x.key) (k : CueKind) (m : Serial) :
    Outbox.find { o with entries := o.entries.map g } k m = (o.find k m).map g := by
  have hnamed : ((fun e : OutEntry => e.named k m) ∘ g) = fun e => e.named k m :=
    funext fun x => OutEntry.named_eq_of_key (hg x) k m
  rw [Outbox.find, List.find?_map, hnamed, Outbox.find]

/-- A sweep that closes nothing changes the entries of a kind and serial in their places. -/
theorem State.sweepOutbox_onEntry_map (s : State) (kind : CueKind) (n : Serial) (g : OutEntry → OutEntry) :
    s.sweepOutbox (onEntry kind n fun e => (g e, none)) =
      { s with ob := { s.ob with entries := s.ob.entries.map fun x => if x.named kind n then g x else x } } := by
  have hentry : (onEntry kind n fun e => (g e, none)) = fun x => (if x.named kind n then g x else x, none) :=
    funext fun x => by
      unfold onEntry
      split <;> rfl
  rw [hentry, State.sweepOutbox, sweep_map fun _ _ => rfl, State.offers_nil]

/-- R84: in a lawful outbox that is one entry. -/
theorem Outbox.map_named {o : Outbox} (ho : o.Lawful) (he : o.find kind n = some e) (g : OutEntry → OutEntry) :
    (o.entries.map fun x => if x.named kind n then g x else x) = o.entries.map ((g e).inPlace kind n) :=
  List.map_congr_left fun x hx => by
    unfold OutEntry.inPlace
    split
    · next h => rw [(o.named_iff_eq_of_find ho he hx).1 h]
    · rfl

theorem OutEntry.filter_inPlace (he : e.key = (kind, n)) (es : List OutEntry) :
    ((es.map (e.inPlace kind n)).filter fun x => !x.named kind n) = es.filter fun x => !x.named kind n := by
  have hnamed : ((fun x : OutEntry => !x.named kind n) ∘ e.inPlace kind n) = fun x => !x.named kind n :=
    funext fun x => congrArg Bool.not (OutEntry.named_eq_of_key (OutEntry.inPlace_key he x) kind n)
  rw [List.filter_map, hnamed]
  refine (List.map_congr_left fun x hx => ?_).trans (List.map_id _)
  have hx' : x.named kind n = false := by simpa using (List.mem_filter.1 hx).2
  simp [OutEntry.inPlace, hx']

/-- A change of the entry just put in place. -/
theorem OutEntry.change_inPlace {y : OutEntry} (hy : y.key = (kind, n)) (g : OutEntry → OutEntry) (es : List OutEntry) :
    ((es.map (y.inPlace kind n)).map fun x => if x.named kind n then g x else x) = es.map ((g y).inPlace kind n) := by
  refine List.map_map.trans (List.map_congr_left fun x _ => ?_)
  have hx := OutEntry.named_eq_of_key (OutEntry.inPlace_key hy x) kind n
  simp only [Function.comp_apply, hx]
  unfold OutEntry.inPlace
  split
  · rfl
  · rfl

/-- The entry found, changed in its place, is found. -/
theorem Outbox.find_inPlace {o : Outbox} {y : OutEntry} (he : o.find kind n = some e) (hy : y.key = (kind, n)) :
    Outbox.find { o with entries := o.entries.map (y.inPlace kind n) } kind n = some y := by
  rw [Outbox.find_map (OutEntry.inPlace_key hy), he]
  exact congrArg some (if_pos (OutEntry.named_iff.2 (Outbox.find_spec he).2))

/-! ## A verdict of the own queue (R56, R94, R97) -/

/-- R56, R94: the verdict goes to the entry of its class and of the serial, if one is open. -/
theorem State.ownVerdict_eq (s : State) (n : Serial) (v : Verdict) :
    s.ownVerdict n v = { s with
      ob := { s.ob with
        entries := s.ob.entries.map fun x =>
          if x.named v.kind n then { x with selfVerdict := takeVerdict x.selfVerdict v } else x } } := by
  unfold State.ownVerdict State.cancelSelf
  split
  · next h =>
    rw [h]
    exact s.sweepOutbox_onEntry_map _ _ _
  · next h =>
    rw [h]
    exact s.sweepOutbox_onEntry_map _ _ _

/-- R46 to R51: a first send is answered within the cue class. -/
theorem CueQueue.enterCue_kind (q : CueQueue) (now : Cycle) (item : CueItem) (channel : Channel) :
    (q.enterCue now item channel).2.1.kind = .cue := by
  unfold CueQueue.enterCue
  dsimp only
  split <;> split <;> rfl

theorem CueQueue.takeCue_kind {q : CueQueue} {now : Cycle} {item : CueItem} (h : item.retry = false) :
    (q.takeCue now item).2.1.kind = .cue := by
  unfold CueQueue.takeCue
  split
  · rfl
  · split
    · rfl
    · split
      · exact enterCue_kind ..
      · rw [h, if_neg Bool.false_ne_true]
        exact enterCue_kind ..

/-! ## Which send an item is (R93, R94, R117) -/

/-- Settles O37: the entry's send data decides which send an item is; a retry changes the entries in their places. -/
theorem sentItemsAndRetries : Obligations.SentItemsAndRetries := by
  refine ⟨fun s n => ⟨fun _ => rfl, fun _ _ => rfl, ?_, ?_, ?_, ?_⟩, fun s n t lead => ⟨?_, ?_⟩⟩
  · rintro retry lead contents ⟨serial, kind, state, source, send, self⟩ t pending he rfl rfl
    cases send with
    | none => exact ⟨fun _ => by simp only [State.itemSent, he], fun h => absurd rfl h⟩
    | some d => exact ⟨nofun, fun _ => by simp only [State.itemSent, he]⟩
  · rintro ⟨serial, kind, state, source, send, self⟩ he rfl
    cases send with
    | none => exact ⟨fun _ => by simp only [State.itemSent, he], fun h => absurd rfl h⟩
    | some d => exact ⟨nofun, fun _ => by simp only [State.itemSent, he]⟩
  · intro retry lead contents he
    simp only [State.itemSent, he]
  · intro he
    simp only [State.itemSent, he]
  · rw [State.cueRetrySent, State.sweepOutbox_onEntry_map, State.offerOwn, State.ownVerdict_eq]
    simp only [State.offers, List.map_map]
    rfl
  · exact s.sweepOutbox_onEntry_map ..

/-! ## The first send (R56, R57, R58, R93, R98) -/

/-- R93, R56: a CUE entry after its first send and the offer to the own queue. -/
def State.sentCue (s : State) (n : Serial) (t : CueTemplate) (e : OutEntry) : OutEntry :=
  { e with
    kind := .cue t false, state := .sent, send := some (s.firstSend (min s.window t.lead))
    selfVerdict := some (s.cq.takeCue s.ct.cycle
      { id := { originator := s.self, serial := n }, retry := false, lead := t.lead, contents := t.contents }).2.1 }

/-- R93, R56: the first send of a CUE entry up to its own queue's verdict. -/
theorem State.cueOffered {t : CueTemplate} (hob : s.ob.Lawful) (he : s.ob.find .cue n = some e)
    (hself : e.selfVerdict = none) :
    let own := s.cq.takeCue s.ct.cycle
      { id := { originator := s.self, serial := n }, retry := false, lead := t.lead, contents := t.contents }
    (s.sweepOutbox (onEntry .cue n fun e =>
      ({ e with state := .sent, kind := .cue t false, send := some (s.firstSend (min s.window t.lead)) }, none))).offerOwn
      { id := { originator := s.self, serial := n }, retry := false, lead := t.lead, contents := t.contents } =
    { s with
      cq := own.1
      ob := { s.ob with entries := s.ob.entries.map ((s.sentCue n t e).inPlace .cue n) }
      ev := s.ev.offers own.2.2 } := by
  intro own
  have hnamed : e.named .cue n = true := OutEntry.named_iff.2 (Outbox.find_spec he).2
  have hkind : own.2.1.kind = .cue := CueQueue.takeCue_kind rfl
  rw [State.sweepOutbox_onEntry_map, Outbox.map_named hob he, State.offerOwn, State.ownVerdict_eq]
  rw [hkind]
  refine congrArg (fun es => ({ s with
    cq := own.1
    ob := { s.ob with entries := es }
    ev := s.ev.offers own.2.2 } : State)) ?_
  refine (OutEntry.change_inPlace ?_ (fun x => { x with selfVerdict := takeVerdict x.selfVerdict own.2.1 }) _).trans ?_
  · exact congrArg (Prod.mk CueKind.cue) (OutEntry.named_iff.1 hnamed).2
  · dsimp only
    rw [hself]
    rfl

/-- R98, R102: after a first send the entry closes COMPLETE when nobody is expected. -/
theorem State.sweepOutbox_settle {t : State} (hob : t.ob.Lawful) (he : t.ob.find kind n = some e) {deadline : Nat}
    (hsend : e.send = some (s.firstSend deadline)) :
    t.sweepOutbox (onEntry kind n OutEntry.settle) = { t with
      ob := { t.ob with
        entries := if s.st.roster = [] then t.ob.entries.filter fun x => !x.named kind n else t.ob.entries }
      ev := t.ev.offers (if s.st.roster = [] then [e.coverage .complete] else []) } := by
  have hun : e.unanswered = s.st.roster.map Peer.station := by
    simp only [OutEntry.unanswered, hsend, State.firstSend, SlotTable.present]
    exact List.filter_eq_self.2 fun _ _ => rfl
  have hsettle := OutEntry.settle_of_sent hsend
  rw [hun] at hsettle
  by_cases hnobody : s.st.roster = []
  · rw [State.sweepOutbox_onEntry_closes hob he (e' := e) (o := .complete) (by rw [hsettle, hnobody]; rfl),
      if_pos hnobody, if_pos hnobody]
  · rw [State.sweepOutbox_onEntry_stays hob he (e' := e) (by rw [hsettle, if_neg (by simpa using hnobody)]),
      if_neg hnobody, if_neg hnobody]
    have hsame : (t.ob.entries.map fun x => if x.named kind n then e else x) = t.ob.entries :=
      (List.map_congr_left fun x hx => by
        split
        · next hn => exact ((t.ob.named_iff_eq_of_find hob he hx).1 hn).symm
        · rfl).trans (List.map_id _)
    rw [hsame]
    rfl

/-- R56, R93, R98: the first send of a CUE entry that no cancel waits for. -/
theorem State.cueFirstSend_free {t : CueTemplate} (hob : s.ob.Lawful) (he : s.ob.find .cue n = some e)
    (hself : e.selfVerdict = none) :
    let own := s.cq.takeCue s.ct.cycle
      { id := { originator := s.self, serial := n }, retry := false, lead := t.lead, contents := t.contents }
    s.cueFirstSend n t false = { s with
      cq := own.1
      ob := { s.ob with
        entries := if s.st.roster = [] then s.ob.entries.filter fun x => !x.named .cue n
          else s.ob.entries.map ((s.sentCue n t e).inPlace .cue n) }
      ev := s.ev.offers (own.2.2 ++ if s.st.roster = [] then [(s.sentCue n t e).coverage .complete] else []) } := by
  intro own
  have hkey : (s.sentCue n t e).key = (.cue, n) := congrArg (Prod.mk CueKind.cue) (Outbox.find_spec he).2.2
  rw [State.cueFirstSend]
  simp only [Bool.false_eq_true, if_false, Bool.false_and]
  rw [State.cueOffered hob he hself]
  rw [State.sweepOutbox_settle (hob.map (OutEntry.inPlace_key hkey)) (Outbox.find_inPlace he hkey) rfl]
  simp only [EventQueue.offers_append, OutEntry.filter_inPlace hkey]
  rfl

/-- R93, R57: a CANCEL entry after its first send. -/
def State.sentCancel (s : State) (n : Serial) (e : OutEntry) : OutEntry :=
  { e with
    state := .sent, send := some (s.firstSend s.window)
    selfVerdict := if e.selfVerdict = none then some (s.cq.takeCancel { originator := s.self, serial := n }).2
      else e.selfVerdict }

/-- R57, R93: the first send of a CANCEL entry up to its own queue's verdict. -/
theorem State.cancelOffered (hob : s.ob.Lawful) (he : s.ob.find .cancel n = some e) :
    let own := s.cq.takeCancel { originator := s.self, serial := n }
    let sent := s.sweepOutbox (onEntry .cancel n fun e =>
      ({ e with state := .sent, send := some (s.firstSend s.window) }, none))
    (match e.selfVerdict with
      | some _ => sent
      | none => { sent with cq := own.1 }.cancelSelf n own.2) =
    { s with
      cq := if e.selfVerdict = none then own.1 else s.cq
      ob := { s.ob with entries := s.ob.entries.map ((s.sentCancel n e).inPlace .cancel n) } } := by
  intro own sent
  have hsent : sent = { s with ob := { s.ob with
      entries := s.ob.entries.map (OutEntry.inPlace .cancel n
        { e with state := .sent, send := some (s.firstSend s.window) }) } } := by
    rw [← Outbox.map_named hob he fun e => { e with state := .sent, send := some (s.firstSend s.window) }]
    exact s.sweepOutbox_onEntry_map ..
  rw [hsent]
  cases hself : e.selfVerdict with
  | some v =>
    simp only [reduceCtorEq, if_false, State.sentCancel, hself]
  | none =>
    dsimp only
    rw [State.cancelSelf, State.sweepOutbox_onEntry_map, if_pos rfl]
    refine congrArg (fun es => ({ s with cq := own.1, ob := { s.ob with entries := es } } : State)) ?_
    refine (OutEntry.change_inPlace ?_ (fun x => x.takeSelf own.2) _).trans ?_
    · exact OutEntry.key_eq_of_named (OutEntry.named_iff.2 (Outbox.find_spec he).2)
    · simp only [State.sentCancel, OutEntry.takeSelf, hself, if_true]
      rfl

/-- R57, R93, R98: the first send of a CANCEL entry. -/
theorem State.cancelFirstSend_eq (hob : s.ob.Lawful) (he : s.ob.find .cancel n = some e) :
    let own := s.cq.takeCancel { originator := s.self, serial := n }
    s.cancelFirstSend n e.selfVerdict = { s with
      cq := if e.selfVerdict = none then own.1 else s.cq
      ob := { s.ob with
        entries := if s.st.roster = [] then s.ob.entries.filter fun x => !x.named .cancel n
          else s.ob.entries.map ((s.sentCancel n e).inPlace .cancel n) }
      ev := s.ev.offers (if s.st.roster = [] then [(s.sentCancel n e).coverage .complete] else []) } := by
  intro own
  have hkey : (s.sentCancel n e).key = (.cancel, n) :=
    OutEntry.key_eq_of_named (OutEntry.named_iff.2 (Outbox.find_spec he).2)
  have hoffered := State.cancelOffered hob he
  unfold State.cancelFirstSend
  refine (congrArg (State.sweepOutbox · (onEntry .cancel n OutEntry.settle)) hoffered).trans ?_
  rw [State.sweepOutbox_settle (hob.map (OutEntry.inPlace_key hkey)) (Outbox.find_inPlace he hkey) rfl]
  simp only [OutEntry.filter_inPlace hkey]
  rfl

theorem Outbox.Lawful.filter {o : Outbox} (h : o.Lawful) (p : OutEntry → Bool) :
    Outbox.Lawful { o with entries := o.entries.filter p } where
  fits := (List.length_filter_le _ _).trans h.fits
  distinct := h.distinct.sublist (List.filter_sublist.map _)

theorem Outbox.find_filter {o : Outbox} {p : OutEntry → Bool} (h : ∀ x, x.named kind n = true → p x = true) :
    Outbox.find { o with entries := o.entries.filter p } kind n = o.find kind n := by
  rw [Outbox.find, List.find?_filter, Outbox.find]
  refine congrArg (List.find? · o.entries) (funext fun x => ?_)
  cases hx : x.named kind n <;> simp [hx, h x]

theorem OutEntry.not_named_cancel (h : e.named .cue n = true) (m : Serial) : e.named .cancel m = false := by
  simp [OutEntry.named, (OutEntry.named_iff.1 h).1]

theorem OutEntry.not_named_cue (h : e.named .cancel n = true) (m : Serial) : e.named .cue m = false := by
  simp [OutEntry.named, (OutEntry.named_iff.1 h).1]

/-- A closure by kind and serial, before or after changes in place. -/
theorem OutEntry.filter_named_map {g : OutEntry → OutEntry} (hg : ∀ x, (g x).key = x.key) (k : CueKind) (m : Serial)
    (es : List OutEntry) :
    ((es.map g).filter fun x => !x.named k m) = (es.filter fun x => !x.named k m).map g := by
  rw [List.filter_map]
  exact congrArg (fun p => (es.filter p).map g)
    (funext fun x => congrArg Bool.not (OutEntry.named_eq_of_key (hg x) k m))

/-- R104: a CANCEL entry that can no longer be sent closes WITHDRAWN. -/
theorem State.sweepOutbox_withdraw {t : State} (hob : t.ob.Lawful) (he : t.ob.find kind n = some e) :
    t.sweepOutbox (onEntry kind n OutEntry.withdraw) = { t with
      ob := { t.ob with entries := t.ob.entries.filter fun x => !x.named kind n }
      ev := t.ev.offers [e.coverage .withdrawn] } :=
  State.sweepOutbox_onEntry_closes hob he rfl

/-- R58, R89, R93, R98, R104: the first send of a withdraw-pending CUE entry. -/
theorem State.cueFirstSend_pending {t : CueTemplate} {c : OutEntry} (hob : s.ob.Lawful) (he : s.ob.find .cue n = some e)
    (hc : s.ob.find .cancel n = some c) (hself : e.selfVerdict = none) (hcself : c.selfVerdict = none) :
    let id : CueId := { originator := s.self, serial := n }
    let own := s.cq.takeCue s.ct.cycle { id := id, retry := false, lead := t.lead, contents := t.contents }
    let cancelled := own.1.takePendingCancel id
    let sent := s.sentCue n t e
    let told : OutEntry := { c with selfVerdict := some cancelled.2 }
    let stays := fun x : OutEntry =>
      !(x.named .cue n && s.st.roster.isEmpty) && !(x.named .cancel n && !s.sc.state.talking)
    s.cueFirstSend n t true = { s with
      cq := cancelled.1
      ob := { s.ob with
        entries := (s.ob.entries.filter stays).map fun x => told.inPlace .cancel n (sent.inPlace .cue n x) }
      ev := s.ev.offers (own.2.2 ++ (if s.st.roster = [] then [sent.coverage .complete] else []) ++
        if s.sc.state.talking then [] else [told.coverage .withdrawn]) } := by
  intro id own cancelled sent told stays
  have hsent : sent.named .cue n = true := OutEntry.named_iff.2 ⟨rfl, (Outbox.find_spec he).2.2⟩
  have hcn : c.named .cancel n = true := OutEntry.named_iff.2 (Outbox.find_spec hc).2
  have htold : told.named .cancel n = true := hcn
  have hsentKey := OutEntry.inPlace_key (OutEntry.key_eq_of_named hsent)
  have htoldKey := OutEntry.inPlace_key (OutEntry.key_eq_of_named htold)
  have hkeys : ∀ x, (told.inPlace .cancel n (sent.inPlace .cue n x)).key = x.key := fun x =>
    (htoldKey _).trans (hsentKey x)
  have hcancel : ∀ {q : CueQueue} {ev : EventQueue}, ({ s with
        cq := q
        ob := { s.ob with entries := s.ob.entries.map (sent.inPlace .cue n) }
        ev := ev } : State).cancelSelf n cancelled.2 = { s with
        cq := q
        ob := { s.ob with entries := s.ob.entries.map fun x => told.inPlace .cancel n (sent.inPlace .cue n x) }
        ev := ev } := fun {q ev} => by
    have hfind : Outbox.find { s.ob with entries := s.ob.entries.map (sent.inPlace .cue n) } .cancel n = some c := by
      rw [Outbox.find_map hsentKey, hc]
      exact congrArg some (if_neg (by rw [OutEntry.not_named_cue hcn]; exact Bool.false_ne_true))
    rw [State.cancelSelf, State.sweepOutbox_onEntry_map, Outbox.map_named (hob.map hsentKey) hfind, List.map_map]
    have hc' : c.takeSelf cancelled.2 = told := by
      rw [OutEntry.takeSelf, hcself]
      rfl
    rw [hc']
    rfl
  have hlawful := hob.map hkeys
  have hfindCue : Outbox.find { s.ob with
      entries := s.ob.entries.map fun x => told.inPlace .cancel n (sent.inPlace .cue n x) } .cue n = some sent := by
    rw [Outbox.find_map hkeys, he]
    have hin : sent.inPlace .cue n e = sent := if_pos (OutEntry.named_iff.2 (Outbox.find_spec he).2)
    exact congrArg some ((congrArg _ hin).trans
      (if_neg (by rw [OutEntry.not_named_cancel hsent]; exact Bool.false_ne_true)))
  have hfindCancel : Outbox.find { s.ob with
      entries := s.ob.entries.map fun x => told.inPlace .cancel n (sent.inPlace .cue n x) } .cancel n = some told := by
    rw [Outbox.find_map hkeys, hc]
    have hin : sent.inPlace .cue n c = c := if_neg (by rw [OutEntry.not_named_cue hcn]; exact Bool.false_ne_true)
    exact congrArg some ((congrArg _ hin).trans (if_pos hcn))
  unfold State.cueFirstSend
  simp only [Bool.true_and, if_true]
  rw [State.cueOffered hob he hself]
  dsimp only
  rw [hcancel, State.sweepOutbox_settle hlawful hfindCue rfl]
  have hleft : ∀ {t : State}, t.ob = { s.ob with
        entries := if s.st.roster = []
          then (s.ob.entries.map fun x => told.inPlace .cancel n (sent.inPlace .cue n x)).filter fun x => !x.named .cue n
          else s.ob.entries.map fun x => told.inPlace .cancel n (sent.inPlace .cue n x) } →
      t.ob.Lawful ∧ t.ob.find .cancel n = some told := fun {t} ht => by
    rw [ht]
    split
    · refine ⟨hlawful.filter _, (Outbox.find_filter fun x hx => ?_).trans hfindCancel⟩
      simp [OutEntry.not_named_cue hx]
    · exact ⟨hlawful, hfindCancel⟩
  have hroster : s.st.roster.isEmpty = decide (s.st.roster = []) := by
    cases s.st.roster <;> rfl
  cases htalk : s.sc.state.talking with
  | true =>
    have hstays : stays = fun x => !(x.named .cue n && decide (s.st.roster = [])) := by
      simp only [stays, htalk, hroster, Bool.not_true, Bool.and_false, Bool.not_false, Bool.and_true]
    rw [Bool.not_true, if_neg Bool.false_ne_true, hstays, EventQueue.offers_append, EventQueue.offers_append]
    by_cases hnobody : s.st.roster = []
    · simp only [hnobody, if_true, decide_true, Bool.and_true, OutEntry.filter_named_map hkeys]
      rfl
    · simp only [hnobody, if_false, decide_false, Bool.and_false, Bool.not_false, List.filter_true]
      rfl
  | false =>
    have hstays : stays = fun x => !(x.named .cue n && decide (s.st.roster = [])) && !x.named .cancel n := by
      simp only [stays, htalk, hroster, Bool.not_false, Bool.and_true]
    rw [Bool.not_false, if_pos rfl, State.sweepOutbox_withdraw (hleft rfl).1 (hleft rfl).2, hstays,
      EventQueue.offers_append, EventQueue.offers_append]
    by_cases hnobody : s.st.roster = []
    · simp only [hnobody, if_true, decide_true, OutEntry.filter_named_map hkeys, List.filter_filter, Bool.and_comm]
      rfl
    · simp only [hnobody, if_false, decide_false, Bool.and_false, Bool.not_false, Bool.true_and,
        OutEntry.filter_named_map hkeys]
      rfl

/-- Settles O36: each entry is changed in its place and then closes or stays. -/
theorem firstSends : Obligations.FirstSends := by
  refine ⟨?_, ?_, ?_⟩
  · intro s n t e hob he hk _ hself own sent
    have hsent : s.sentCue n t e = sent := by
      rw [State.sentCue, ← hk]
      rfl
    rw [← hsent]
    exact State.cueFirstSend_free hob he hself
  · intro s n e hob he _ own sent
    exact State.cancelFirstSend_eq hob he
  · intro s n t e c hob he hc hk _ hself hcself id own cancelled sent told put stays
    have hput : (fun x => told.inPlace .cancel n (sent.inPlace .cue n x)) = put := funext fun x => by
      simp only [put, OutEntry.inPlace]
      split
      · next hx =>
        have hsent : sent.named .cue n = true := OutEntry.named_iff.2 ⟨rfl, (Outbox.find_spec he).2.2⟩
        rw [if_neg (by rw [OutEntry.not_named_cancel hsent]; exact Bool.false_ne_true)]
      · rfl
    rw [← hput]
    exact State.cueFirstSend_pending hob he hc hself hcself

end Sys2Proof.Machine
end

section
/-! PROOFS. The own slot frame that fails: its slot's entry, the record LC opens, and the entries it carried. -/

namespace Sys2Proof.Machine

variable {s : State}

/-! ## The view of a slot as holder or claimer (R19) -/

theorem SlotView.owner_of_heldBy {v : SlotView} {z : Station} (h : v.heldBy z = true) : v.owner = some z := by
  cases v with
  | held o n => exact congrArg some (by simpa [heldBy] using h)
  | free => cases h
  | claimed o k => cases h

theorem SlotView.owner_of_claimedBy {v : SlotView} {z : Station} (h : v.claimedBy z = true) : v.owner = some z := by
  cases v with
  | claimed o k => exact congrArg some (by simpa [claimedBy] using h)
  | free => cases h
  | held o n => cases h

theorem SlotView.not_heldBy_of_claimedBy {v : SlotView} {z : Station} (h : v.claimedBy z = true) : v.heldBy z = false := by
  cases v with
  | claimed o k => rfl
  | free => cases h
  | held o n => cases h

/-- R31, R119: the own entry of a lost header, by the view that the entry shows. -/
theorem State.loseOwn_eq {slot : Nat} {e : SlotEntry} (hslot : 1 ≤ slot) (he : s.st.entries[slot - 1]? = some e) :
    let freed : State := { s with st := { s.st with entries := s.st.entries.set (slot - 1) .free } }
    (e.view.heldBy s.self = true → s.loseOwn slot = State.checkCounts { freed with
      ev := s.ev.offer (.slotLost slot .displaced s.ct.cycle freed.heldCount) }) ∧
    (e.view.claimedBy s.self = true → s.loseOwn slot = freed.checkCounts) ∧
    (e.view.owner ≠ some s.self → s.loseOwn slot = s) := by
  intro freed
  have hview : s.st.view slot = e.view := SlotTable.view_of_entry (SlotTable.entry_of_getElem? hslot he)
  unfold State.loseOwn
  rw [hview, SlotTable.put_eq hslot]
  refine ⟨fun hheld => ?_, fun hclaimed => ?_, fun hother => ?_⟩
  · rw [if_pos hheld]
    rfl
  · rw [if_neg (by simp [SlotView.not_heldBy_of_claimedBy hclaimed]), if_pos hclaimed]
  · rw [if_neg fun h => hother (SlotView.owner_of_heldBy h), if_neg fun h => hother (SlotView.owner_of_claimedBy h)]

/-! ## The entries of a frame that failed (R89, R95, R177) -/

theorem TxItem.any_carries (items : List TxItem) (kind : CueKind) (n : Serial) :
    items.any (TxItem.carries kind n) = true ↔ ∃ i ∈ items,
      (kind = .cancel ∧ i = .cancel n) ∨ (kind = .cue ∧ ∃ retry lead contents, i = .cue n retry lead contents) := by
  rw [List.any_eq_true]
  refine exists_congr fun i => and_congr_right fun _ => ?_
  cases i with
  | release r => simp [TxItem.carries]
  | ack id v => simp [TxItem.carries]
  | cancel m => simp [TxItem.carries]
  | cue m retry lead contents => simp [TxItem.carries]

theorem OutEntry.isCue_eq_false_iff {e : OutEntry} : e.isCue = false ↔ e.kind = .cancel := by
  unfold OutEntry.isCue
  split
  · next h => simp [h]
  · next h => simp [h]

theorem OutEntry.withdrawPending_iff {e : OutEntry} : e.withdrawPending = true ↔ ∃ t, e.kind = .cue t true := by
  unfold OutEntry.withdrawPending
  split
  · next h => simp [h]
  · next h => simp [h]

theorem OutEntry.cueKind_of_kind {e : OutEntry} {t : CueTemplate} {w : Bool} (h : e.kind = .cue t w) :
    e.cueKind = .cue := by
  rw [OutEntry.cueKind, OutEntry.isCue, h]
  rfl

/-- R95: an entry that the failed frame carried while it was SENDING. -/
theorem OutEntry.fail_eq {e : OutEntry} (talking : Bool) (h : e.state = .sending) :
    (e.send ≠ none → e.fail talking = ({ e with state := .sent }, none)) ∧
    (e.send = none → talking = true → e.withdrawPending = false → e.fail talking = ({ e with state := .queued }, none)) ∧
    (e.send = none → talking = false ∨ e.withdrawPending = true →
      e.fail talking = ({ e with state := .queued }, some .withdrawn)) := by
  unfold OutEntry.fail
  rw [if_neg (by simpa using h)]
  refine ⟨fun hs => if_pos (Option.isSome_iff_ne_none.2 hs), fun hs ht hw => ?_, fun hs hw => ?_⟩
  · rw [hs, ht, hw]
    rfl
  · have hfree : (talking && !e.withdrawPending) = false := by
      rcases hw with rfl | hw
      · rfl
      · rw [hw, Bool.not_true, Bool.and_false]
    rw [hs, hfree]
    rfl

/-- R95, R118, R119, R177: what a failed frame makes of each entry of the outbox. -/
theorem State.itemsFailed_spec (s : State) (items : List TxItem) :
    ∃ (kept : OutEntry → Option OutEntry) (closed : OutEntry → Option EventRecord),
      s.itemsFailed items = { s with
        ob := { s.ob with entries := s.ob.entries.filterMap kept }
        ev := s.ev.offers (s.ob.entries.filterMap closed) } ∧
      ∀ e x, (e.takenBack s.sc.state.talking s.ob items = (x, none) → kept e = some x ∧ closed e = none) ∧
        (e.takenBack s.sc.state.talking s.ob items = (x, some .withdrawn) →
          kept e = none ∧ closed e = some (x.coverage .withdrawn)) := by
  refine ⟨_, _, s.sweepOutbox_eq _, fun e x => ⟨fun h => ?_, fun h => ?_⟩⟩
  · rw [h]
    exact ⟨rfl, rfl⟩
  · rw [h]
    exact ⟨rfl, rfl⟩

/-! ## The frame's slot (R31, R118, R119, R132) -/

/-- Settles O38: the entry of the frame's slot by its view; then each outbox entry by whether the frame carried it. -/
theorem slotFrameFails : Obligations.SlotFrameFails := by
  refine ⟨?_, fun s items => ?_⟩
  · rintro s ⟨kind, check, items⟩ slot e hf rfl hslot he kept failed ended broken beaten
    obtain ⟨hsc, -, hct, hst, hreport, -, -, hfb, hlc, -, hcounters, -⟩ : failed.sc = s.sc ∧ _ :=
      State.itemsFailed_frame kept items
    have hst' : failed.st = s.st := hst
    have hself : failed.self = s.self := congrArg (fun c : StationController => State.self { s with sc := c }) hsc
    have he' : failed.st.entries[slot - 1]? = some e := by
      rw [hst']
      exact he
    have hview : failed.st.view slot = e.view := SlotTable.view_of_entry (SlotTable.entry_of_getElem? hslot he')
    refine ⟨?_, ?_⟩
    · have hrow : exec .bitError s = .next (s.frameBroken slot { kind := .slot slot, cycleCheck := check, items := items }) := by
        simp only [exec, execBitError, hf]
      have hset : (if (failed.st.view slot).heldBy failed.self then failed.setFailures slot (failed.st.failures slot + 1)
          else failed) = { failed with st := { s.st with
            entries := if e.view.heldBy s.self then s.st.entries.set (slot - 1) { e with failures := e.failures + 1 }
              else s.st.entries } } := by
        rw [hview, hself]
        split
        · rw [SlotTable.failures_of_entry (SlotTable.entry_of_getElem? hslot he'),
            State.setFailures_of_entry hslot he', hst']
        · rw [← hst']
      refine hrow.trans (congrArg Host.Outcome.next ?_)
      refine (congrArg (fun t : State => t.countOwnFailure.endFrame .bitError) hset).trans ?_
      simp only [State.endFrame, State.countOwnFailure, broken, ended, reduceCtorEq, if_false]
      rw [show failed.lc = s.lc from hlc, show failed.slot = s.slot from hreport,
        show failed.counters = s.counters from hcounters]
      rfl
    · intro read expected listening
      have hrow : exec .headerArbitrationLost s =
          .next (s.frameBeaten slot { kind := .slot slot, cycleCheck := check, items := items }) := by
        simp only [exec, execHeaderArbitrationLost, hf]
      have hlistening : s.lc.release.hearOn slot s.lc.overheard [] = listening := by
        have hexpected : expectedBytes slot read = expected := if_neg (by omega)
        simp only [LineController.hearOn, LineController.record, Reception.ofBytes, Reception.crc, List.append_nil]
        rw [show (s.lc.overheard.map Reception.bytes).getD [] = read from rfl, hexpected] <;> rfl
      have hheard : s.frameBeaten slot { kind := .slot slot, cycleCheck := check, items := items } =
          State.loseOwn { failed with
            fb := { failed.fb with transmission := none }
            slot := { s.slot with own := .arbitrationLost, finding := none }
            lc := listening } slot := by
        refine congrArg (State.loseOwn · slot) ?_
        rw [← hlistening, ← show failed.lc = s.lc from hlc, ← show failed.slot = s.slot from hreport]
        rfl
      have hcycle : failed.ct.cycle = s.ct.cycle := congrArg CycleTimer.cycle hct
      obtain ⟨hheld, hclaimed, hother⟩ := State.loseOwn_eq (s := { failed with
        fb := { failed.fb with transmission := none }
        slot := { s.slot with own := .arbitrationLost, finding := none }
        lc := listening }) hslot he'
      rw [show State.self { failed with
        fb := { failed.fb with transmission := none }
        slot := { s.slot with own := .arbitrationLost, finding := none }
        lc := listening } = s.self from hself] at hheld hclaimed hother
      refine ⟨fun h => ?_, fun h => ?_, fun h => ?_⟩
      · rw [hrow, hheard, hheld h]
        simp only [beaten, ended]
        rw [if_pos (SlotView.owner_of_heldBy h), hst', hcycle]
        rfl
      · rw [hrow, hheard, hclaimed h]
        simp only [beaten, ended]
        rw [if_pos (SlotView.owner_of_claimedBy h), hst']
        rfl
      · rw [hrow, hheard, hother h]
        simp only [beaten, ended]
        rw [if_neg h, ← hst']
  · obtain ⟨kept, closed, heq, hspec⟩ := s.itemsFailed_spec items
    refine ⟨kept, closed, heq, ?_⟩
    intro e he carried ofPending stays closes
    have hcarried : ∀ kind n, items.any (TxItem.carries kind n) = true ↔ carried kind n := TxItem.any_carries items
    have hpending : ofPending ↔ e.isCue = false ∧ items.any (TxItem.carries .cue e.serial) = true ∧
        ∃ c ∈ s.ob.entries, c.named .cue e.serial = true ∧ c.state = .sending ∧ c.send = none ∧
          c.withdrawPending = true := by
      rw [hcarried, OutEntry.isCue_eq_false_iff]
      refine and_congr_right fun _ => and_congr_right fun _ => exists_congr fun c => and_congr_right fun _ => ?_
      rw [OutEntry.withdrawPending_iff, OutEntry.named_iff]
      constructor
      · rintro ⟨t, hk, hn, hst, hsend⟩
        exact ⟨⟨OutEntry.cueKind_of_kind hk, hn⟩, hst, hsend, t, hk⟩
      · rintro ⟨⟨-, hn⟩, hst, hsend, t, hk⟩
        exact ⟨t, hk, hn, hst, hsend⟩
    have hother : ¬carried e.cueKind e.serial → items.any (TxItem.carries e.cueKind e.serial) = false := fun h => by
      rw [← Bool.not_eq_true, hcarried]
      exact h
    refine ⟨fun hc hp => ?_, fun hc hp => ?_, fun hc hstate => ?_⟩
    · refine (hspec e e).1 ?_
      rw [OutEntry.takenBack_other _ _ (hother hc), if_neg (mt hpending.2 hp)]
    · refine (hspec e e).2 ?_
      rw [OutEntry.takenBack_other _ _ (hother hc), if_pos (hpending.1 hp)]
    · have htaken := OutEntry.takenBack_carried s.sc.state.talking s.ob ((hcarried _ _).2 hc)
      obtain ⟨hretry, hagain, hcloses⟩ := OutEntry.fail_eq s.sc.state.talking hstate
      exact ⟨fun h => (hspec e _).1 (htaken.trans (hretry h)),
        fun h ht hw => (hspec e _).1 (htaken.trans (hagain h ht hw)),
        fun h hw => (hspec e _).2 (htaken.trans (hcloses h hw))⟩

end Sys2Proof.Machine
end

section
/-! PROOFS. The end of a received frame: its finding, the twin check, the cycle check, and traffic that no slot hears. -/

namespace Sys2Proof.Machine

variable {s : State} {slot : Nat} {bytes : List Byte} {framingError : Bool}

/-! ## A frame that has been heard in its slot (R133 to R139) -/

theorem assess_of_overlong {slots payload : Nat} (h : overlong slot payload bytes = true) :
    assess slot slots payload bytes framingError = .error .format := by
  rw [assess, if_pos h]

/-- R133: a frame received where LC listens, by its finding. -/
theorem State.receive_eq (hslot : s.ct.slotIndex = some slot) :
    (∀ f, assess slot s.slots s.payload bytes framingError = .ok f →
      s.receive bytes framingError = s.takeValid f bytes) ∧
    (assess slot s.slots s.payload bytes framingError = .error .crc →
      s.receive bytes framingError = (s.countCrc.note .invalid).judgeLate) ∧
    (assess slot s.slots s.payload bytes framingError = .error .format → overlong slot s.payload bytes = false →
      s.receive bytes framingError = s.frameLost) ∧
    (overlong slot s.payload bytes = true →
      s.receive bytes framingError = State.frameLost { s with slot := { s.slot with swallow := true } }) := by
  simp only [State.receive, hslot]
  refine ⟨fun f hf => ?_, fun hf => ?_, fun hf hlong => ?_, fun hlong => ?_⟩
  · rw [hf]
  · rw [hf]
  · rw [hf]
    exact if_neg (by simp [hlong])
  · rw [assess_of_overlong hlong]
    exact if_pos hlong

/-- R139: a valid claim of another station. -/
theorem State.takeValid_claim {r c : Byte} (h : c.toNat ≠ s.self.toNat) :
    s.takeValid (.claim r c) bytes = ((s.takeClaim r).note (.claim r c)).judgeLate := by
  simp only [State.takeValid, if_neg h]

/-- R135: a valid frame that carries this station's own number. -/
theorem State.takeValid_twin_claim {r c : Byte} (h : c.toNat = s.self.toNat) :
    s.takeValid (.claim r c) bytes = s.enterHalted .twin := by
  simp only [State.takeValid, if_pos h]

theorem State.takeValid_slotFrame {z : Station} (h : z ≠ s.self) :
    s.takeValid (.slotFrame z) bytes = ((s.note (.slotFrame z)).takeFrame z bytes).judgeLate := by
  simp only [State.takeValid, if_neg h]

theorem State.takeValid_twin (hown : s.slot.own = .silent) :
    s.takeValid (.slotFrame s.self) bytes = s.enterHalted .twin := by
  simp only [State.takeValid, if_true, hown]

theorem State.takeValid_own_lost (hown : s.slot.own = .arbitrationLost) :
    s.takeValid (.slotFrame s.self) bytes = s := by
  simp only [State.takeValid, if_true, hown, reduceCtorEq, if_false]

/-- R133: the judgement waits for the slot's end. -/
theorem State.judgeLate_eq {t : State} (h : t.slot.ended = s.slot.ended) :
    t.judgeLate = if s.slot.ended then t.judge else t := by
  rw [State.judgeLate, h]

/-- R136 to R138: the items of a frame that is in its cycle. -/
theorem State.takeFrame_inCycle {z : Station} (h : byteAt bytes 1 = s.ct.cycle.setWidth 8) :
    let items := parseItems s.slots (itemArea bytes).length (itemArea bytes)
    let taken := items.1.foldl (State.dispatch z) s
    s.takeFrame z bytes = if items.2 then taken.countFormat else taken := by
  intro items taken
  rw [State.takeFrame, if_pos h]

theorem State.takeFrame_outOfCycle {z : Station} (h : byteAt bytes 1 ≠ s.ct.cycle.setWidth 8) :
    s.takeFrame z bytes = s.countCycleCheck := by
  rw [State.takeFrame, if_neg h]

/-! ## The guard before a slot (R132) -/

/-- R132: the guard in which LC listens ahead, as the statement puts it. -/
theorem State.listensAhead_of_guard (hrun : s.sc.state.cyclesRun = true) (hphase : s.ct.phase = .slots)
    (hfb : s.fb.transmission = none) (hearly : s.slot.early = false)
    (hplace : s.ct.slotIndex = none ∨ ∃ k, s.ct.slotIndex = some k ∧ s.slot.judged = true ∧ k + 1 < s.slots) :
    s.listensAhead = true := by
  have hnext : s.nextSlot.isSome = true := by
    unfold State.nextSlot
    rcases hplace with hnone | ⟨k, hk, hjudged, hlt⟩
    · simp [hrun, hphase, hnone]
    · simp [hrun, hphase, hk, hjudged, hlt]
  simp [State.listensAhead, hnext, hfb, hearly]

theorem State.listens_of_guard
    (hplace : s.ct.slotIndex = none ∨ ∃ k, s.ct.slotIndex = some k ∧ s.slot.judged = true ∧ k + 1 < s.slots) :
    s.listens = false := by
  rcases hplace with hnone | ⟨k, hk, hjudged, hlt⟩
  · simp [State.listens, hnone]
  · simp [State.listens, hjudged]

/-- Settles O40: a frame heard in its slot by its finding; then the cut-off, the gap, the guard and stray bytes. -/
theorem receivedFrames : Obligations.ReceivedFrames := by
  refine ⟨?_, ?_⟩
  · intro bytes framingError s slot hlistens hslot finding noted format late row
    have hrow : row = .next (s.receive bytes framingError) := by
      simp only [row, exec, execFrameReceived, hlistens, if_true]
    have hlate : ∀ t : State, t.slot.ended = s.slot.ended → Host.Outcome.next t.judgeLate = late t := fun t ht =>
      congrArg _ (State.judgeLate_eq ht)
    obtain ⟨hvalid, hcrc, hformat, hlong⟩ := State.receive_eq (bytes := bytes) (framingError := framingError) hslot
    rw [hrow]
    refine ⟨fun hf => ?_, fun hf hl => ?_, fun hl => ?_, fun r c hf hc => ?_, fun r c hf hc hr hs => ?_,
      fun r c hf hc hr => ?_, fun hf hown => ?_, fun hf hown => ?_, fun z hf hz hcycle => ?_, fun z hf hz hcycle => ?_⟩
    · rw [hcrc hf]
      exact hlate _ rfl
    · rw [hformat hf hl]
      exact hlate _ rfl
    · rw [hlong hl]
      exact hlate _ rfl
    · rw [hvalid _ hf, State.takeValid_twin_claim hc]
    · rw [hvalid _ hf, State.takeValid_claim hc, State.takeClaim, if_neg (by omega)]
      exact hlate _ rfl
    · rw [hvalid _ hf, State.takeValid_claim hc, State.takeClaim, if_pos hr]
      exact hlate _ rfl
    · rw [hvalid _ hf, State.takeValid_twin hown]
    · rw [hvalid _ hf, State.takeValid_own_lost hown]
    · rw [hvalid _ hf, State.takeValid_slotFrame hz, State.takeFrame_outOfCycle (s := s.note (.slotFrame z)) hcycle]
      exact hlate _ rfl
    · intro items taken
      rw [hvalid _ hf, State.takeValid_slotFrame hz]
      obtain ⟨rs, hrs⟩ := (State.Hears.takeFrame (s.note (.slotFrame z)) z bytes).slot
      have hended : ((s.note (.slotFrame z)).takeFrame z bytes).slot.ended = s.slot.ended := by
        rw [hrs]
        rfl
      rw [hlate _ hended]
      exact congrArg late (State.takeFrame_inCycle (s := s.note (.slotFrame z)) hcycle)
  · intro s lost
    have hgap : s.ct.phase ≠ .opening → exec .byteGap s = .next (if s.listens then s.frameLost
        else if s.listensAhead then s.lostAhead else s) := fun hphase => by
      simp only [exec, execByteGap, if_neg hphase]
    refine ⟨fun hlistens hended => ?_, fun hlistens hended => ?_, fun hrun hphase hslot hfb hrecv hown hswallow => ?_,
      fun hrun hphase hfb hplace => ?_⟩
    · have hlost : s.frameLost = lost.judge := (State.judgeLate_eq (s := s) (t := lost) rfl).trans (if_pos hended)
      obtain ⟨-, hphase, -⟩ := State.listens_iff.1 hlistens
      refine ⟨?_, ?_⟩
      · simp only [exec, execFrameCutOff, hlistens, hended, Bool.and_self, if_true, hlost]
      · rw [hgap (by simp [hphase]), if_pos hlistens, hlost]
    · have hlost : s.frameLost = lost := (State.judgeLate_eq (s := s) (t := lost) rfl).trans (if_neg (by simp [hended]))
      obtain ⟨-, hphase, -⟩ := State.listens_iff.1 hlistens
      rw [hgap (by simp [hphase]), if_pos hlistens, hlost]
    · have hstray : s.countsStray = true := by
        simp [State.countsStray, hrun, hphase, hfb, hrecv, hswallow, hown, Option.isSome_iff_ne_none, hslot]
      simp only [exec, execStrayTraffic, hstray, if_true]
      rfl
    · intro ahead
      have hdeaf := State.listens_of_guard hplace
      refine ⟨fun hearly => ?_, fun hearly hrecv => ?_⟩
      · have hahead := State.listensAhead_of_guard hrun hphase hfb hearly hplace
        refine ⟨?_, fun bytes framingError hlen => ?_⟩
        · rw [hgap (by simp [hphase]), if_neg (by simp [hdeaf]), if_pos hahead]
          rfl
        · simp only [exec, execFrameReceived, hdeaf, hahead, hlen, Bool.false_eq_true, if_false, decide_true,
            Bool.and_self, if_true]
          rfl
      · have hstray : s.countsStray = true := by
          simp [State.countsStray, hrun, hphase, hfb, hrecv, hearly]
        simp only [exec, execStrayTraffic, hstray, if_true]
        rfl

end Sys2Proof.Machine
end

section
/-! PROOFS. The work of a slot's beginning: channels advanced, due records fired, the claim policy, the own frame. -/

namespace Sys2Proof.Machine

variable {s : State} {slot : Nat}

/-! ## The channels at a slot's beginning (R67 to R69) -/

/-- R68, R69: the due records handed over one after the other, each reported with its channel's level right after it. -/
theorem foldl_fireOne (due : List CueRecord) (retired : List Retired) (g : ChannelGenerators)
    (records : List EventRecord) :
    due.foldl fireOne (retired, g, records) =
      (due.foldl (fun l r => retire l r.id .fired) retired, due.foldl (fun g r => g.drive r.channel r.action) g,
        records ++ due.mapIdx fun i r => firedRecord r
          (((due.take (i + 1)).foldl (fun g r => g.drive r.channel r.action) g).channels.get r.channel).level) := by
  induction due generalizing retired g records with
  | nil => simp
  | cons r rs ih =>
    rw [List.foldl_cons, fireOne, ih]
    simp [List.mapIdx_cons]

/-! ## Free slots (R21) -/

theorem slotsWhere_pairwise (p : SlotView → Bool) (first : Nat) (es : List SlotEntry) :
    (slotsWhere p first es).Pairwise (· < ·) := by
  induction es generalizing first with
  | nil => exact .nil
  | cons e es ih =>
    unfold slotsWhere
    split
    · refine List.pairwise_cons.2 ⟨fun k hk => ?_, ih _⟩
      obtain ⟨-, hle, -⟩ := (mem_slotsWhere p (first + 1) es k).1 hk
      omega
    · exact ih _

theorem SlotTable.mem_freeSlots {t : SlotTable} {k : Nat} :
    k ∈ t.freeSlots ↔ 1 ≤ k ∧ t.entries[k - 1]?.map SlotEntry.view = some .free := by
  rw [SlotTable.freeSlots, mem_slotsWhere]
  constructor
  · rintro ⟨e, hk, he, hfree⟩
    exact ⟨hk, by rw [he, Option.map_some, (beq_iff_eq.1 hfree)]⟩
  · rintro ⟨hk, hfree⟩
    obtain ⟨e, he, hv⟩ := Option.map_eq_some_iff.1 hfree
    exact ⟨e, hk, he, beq_iff_eq.2 hv⟩

theorem SlotTable.view_of_mem_freeSlots {t : SlotTable} {k : Nat} (h : k ∈ t.freeSlots) :
    1 ≤ k ∧ k ≤ t.entries.length ∧ t.view k = .free := by
  obtain ⟨hk, hfree⟩ := SlotTable.mem_freeSlots.1 h
  obtain ⟨e, he, hv⟩ := Option.map_eq_some_iff.1 hfree
  obtain ⟨hlt, -⟩ := List.getElem?_eq_some_iff.1 he
  exact ⟨hk, by omega, (SlotTable.view_of_entry (SlotTable.entry_of_getElem? hk he)).trans hv⟩

theorem SlotTable.freeSlots_eq_nil_iff {t : SlotTable} :
    t.freeSlots = [] ↔ ∀ k, 1 ≤ k → k ≤ t.entries.length → t.view k ≠ .free := by
  constructor
  · intro hnil k hk hle hfree
    have he := List.getElem?_eq_getElem (l := t.entries) (i := k - 1) (by omega)
    have hv := (SlotTable.view_of_entry (SlotTable.entry_of_getElem? hk he)).symm.trans hfree
    have hmem : k ∈ t.freeSlots := SlotTable.mem_freeSlots.2 ⟨hk, by rw [he, Option.map_some, hv]⟩
    simp [hnil] at hmem
  · intro h
    refine List.eq_nil_iff_forall_not_mem.2 fun k hk => ?_
    obtain ⟨hpos, hle, hfree⟩ := SlotTable.view_of_mem_freeSlots hk
    exact h k hpos hle hfree

/-- R21: the lowest FREE slot stands first. -/
theorem SlotTable.freeSlots_of_lowest {t : SlotTable} {r : Nat} (hr : 1 ≤ r)
    (hfree : t.entries[r - 1]?.map SlotEntry.view = some .free) (hlow : ∀ k, 1 ≤ k → k < r → t.view k ≠ .free) :
    ∃ rest, t.freeSlots = r :: rest := by
  have hmem : r ∈ t.freeSlots := SlotTable.mem_freeSlots.2 ⟨hr, hfree⟩
  have hsorted : t.freeSlots.Pairwise (· < ·) := slotsWhere_pairwise _ _ _
  cases hl : t.freeSlots with
  | nil => simp [hl] at hmem
  | cons a rest =>
    obtain ⟨ha, -, hview⟩ := SlotTable.view_of_mem_freeSlots (t := t) (k := a) (by simp [hl])
    rw [hl] at hmem hsorted
    rcases List.mem_cons.1 hmem with rfl | hin
    · exact ⟨rest, rfl⟩
    · exact absurd hview (hlow a ha ((List.pairwise_cons.1 hsorted).1 r hin))

/-- R21, R22: the claim policy by whether the station wants a slot and whether one is FREE. -/
theorem State.claimPolicy_eq (s : State) :
    let wants : Prop := s.sc.state = .claiming ∧ s.heldCount + s.claimedCount < s.wanted
    let armed : State := { s with st := { s.st with reportArmed := true } }
    (∀ r rest, wants → s.st.freeSlots = r :: rest → s.claimPolicy = (armed.fixClaim r, [])) ∧
    (wants → s.st.freeSlots = [] → s.st.reportArmed = true →
      s.claimPolicy = ({ s with st := { s.st with reportArmed := false } },
        [.noFreeSlot s.ct.cycle s.heldCount s.claimedCount])) ∧
    (wants → s.st.freeSlots = [] → s.st.reportArmed = false → s.claimPolicy = (s, [])) ∧
    (¬wants → s.st.freeSlots = [] → s.claimPolicy = (s, [])) ∧
    (¬wants → s.st.freeSlots ≠ [] → s.claimPolicy = (armed, [])) := by
  intro wants armed
  unfold State.claimPolicy
  dsimp only
  refine ⟨fun r rest (hw : _ ∧ _) hf => ?_, fun (hw : _ ∧ _) hf ha => ?_, fun (hw : _ ∧ _) hf ha => ?_,
    fun (hw : ¬(_ ∧ _)) hf => ?_, fun (hw : ¬(_ ∧ _)) hf => ?_⟩
  · rw [if_pos hw, hf]
    rfl
  · rw [if_pos hw, hf]
    exact if_pos ha
  · rw [if_pos hw, hf]
    exact if_neg (by simp [ha])
  · rw [if_neg hw, hf]
    rfl
  · rw [if_neg hw, if_neg (by simpa using hf)]

/-- R107: the slots for which an own frame is fixed. -/
theorem State.fixes_iff : s.fixes slot = true ↔
    (∃ n, s.st.view slot = .held s.self n ∧ s.sc.state.stages = true) ∨
    (∃ k, s.st.view slot = .claimed s.self k ∧ later s.ct.cycle k = true ∧
      (s.sc.state = .claiming ∨ s.sc.state = .active)) := by
  unfold State.fixes
  split
  · next z n hv =>
    simp only [hv, Bool.and_eq_true, beq_iff_eq, SlotView.held.injEq, reduceCtorEq, false_and, exists_false, or_false]
    exact ⟨fun ⟨hz, hs⟩ => ⟨n, ⟨hz, rfl⟩, hs⟩, fun ⟨_, ⟨hz, _⟩, hs⟩ => ⟨hz, hs⟩⟩
  · next z k hv =>
    simp only [hv, Bool.and_eq_true, beq_iff_eq, SlotView.claimed.injEq, reduceCtorEq, false_and, exists_false, false_or,
      StationState.talking_iff]
    constructor
    · rintro ⟨⟨hz, ht⟩, hl⟩
      exact ⟨k, ⟨hz, rfl⟩, hl, ht⟩
    · rintro ⟨_, ⟨hz, rfl⟩, hl, ht⟩
      exact ⟨⟨hz, ht⟩, hl⟩
  · next hv => simp [hv]

theorem State.offersUnordered_nil (s : State) (xs : List EventRecord) : s.offersUnordered xs [] = s.offers xs := by
  simp [State.offersUnordered]

/-- R132: LC at the beginning of a slot. -/
theorem LineController.turn_eq (l : LineController) (slot : Nat) :
    let ahead : Bool := l.reception.any fun r => r.slot == slot
    l.turn slot = { l with
      drive := .released, sending := .nothing, arbitration := .outside, heldMismatch := false
      crc := if ahead then l.crc else none
      reception := if ahead then l.reception else none
      overheard := none } := by
  intro ahead
  have hfilter : (l.reception.filter fun r => r.slot == slot) = if ahead then l.reception else none := by
    cases h : l.reception with
    | none => simp
    | some r => simp [ahead, h, Option.filter]
  rw [LineController.turn, hfilter]
  rfl

theorem State.nextSlot_eq (hrun : s.sc.state.cyclesRun = true) (hphase : s.ct.phase = .slots)
    (hplace : (s.ct.slotIndex = none ∧ slot = 0) ∨
      (s.ct.slotIndex = some (slot - 1) ∧ 1 ≤ slot ∧ s.slot.judged = true ∧ slot < s.slots)) :
    s.nextSlot = some slot := by
  rw [State.nextSlot, if_pos ⟨hrun, hphase⟩]
  rcases hplace with ⟨hnone, rfl⟩ | ⟨hsome, hpos, hjudged, hlt⟩
  · rw [hnone]
  · have hsucc : slot - 1 + 1 = slot := by omega
    rw [hsome]
    simp only [hsucc, hjudged, hlt, and_self, if_true]

/-- Settles O26: the fold over the due records; then slot 0 by the claim policy, and the others by the own frame. -/
theorem slotBeginsWithItsWork : Obligations.SlotBeginsWithItsWork := by
  refine ⟨?_, ?_⟩
  · intro s slot due after
    have hfired := foldl_fireOne due s.cq.retired s.cg.advance []
    refine ⟨fun c => PerChannel.get_map _ _ _, ?_, ?_⟩
    · have hwork : (s.slotWork slot).1 = { s with
          cq := { s.cq with records := s.cq.records.filter fun r => !r.dueAt s.ct.cycle slot
                            retired := (due.foldl fireOne (s.cq.retired, s.cg.advance, [])).1 }
          cg := (due.foldl fireOne (s.cq.retired, s.cg.advance, [])).2.1 } := rfl
      rw [hwork, hfired]
      rfl
    · have hwork : (s.slotWork slot).2 = if s.ev.reportFiring then
          (due.foldl fireOne (s.cq.retired, s.cg.advance, [])).2.2 else [] := rfl
      rw [hwork, hfired]
      rfl
  · intro s slot hrun hphase hplace ahead begun t fired reported wants noneFree
    have hbegun : s.beginSlot slot = if slot = 0 then t.claimPolicy.1.offersUnordered fired t.claimPolicy.2
        else if reported.fixes slot then reported.fixSlotFrame slot else reported := by
      have hturn := s.lc.turn_eq slot
      unfold State.beginSlot
      rw [hturn]
      rfl
    have hrow : exec .slotBegins s = .next (s.beginSlot slot) := by
      simp only [exec, execSlotBegins, State.nextSlot_eq hrun hphase hplace]
    rw [hrow, hbegun]
    refine ⟨fun hslot => ?_, fun hslot => ?_⟩
    · intro own
      have hfixes : reported.fixes slot = true ↔ own := State.fixes_iff
      rw [if_neg hslot]
      exact ⟨fun ho => by rw [if_pos (hfixes.2 ho)], fun ho => by rw [if_neg (mt hfixes.1 ho)]⟩
    · have hnone : noneFree ↔ t.st.freeSlots = [] := SlotTable.freeSlots_eq_nil_iff.symm
      obtain ⟨hclaims, hreports, hsilent, hrest, harms⟩ := t.claimPolicy_eq
      rw [if_pos hslot]
      refine ⟨fun r hw hfree hr hlow => ?_, fun hw hf harmed => ?_, fun hw hf harmed => ?_, fun hw hf => ?_,
        fun hw hf => ?_⟩
      · obtain ⟨rest, hhead⟩ := SlotTable.freeSlots_of_lowest (t := t.st) hr hfree hlow
        rw [hclaims r rest hw hhead, State.offersUnordered_nil]
        rfl
      · rw [hreports hw (hnone.1 hf) harmed]
        obtain ⟨records, choices, hinter, heq⟩ := State.offersUnordered_spec
          { t with st := { t.st with reportArmed := false } } fired [.noFreeSlot t.ct.cycle t.heldCount t.claimedCount]
        exact ⟨records, choices, hinter, congrArg _ heq⟩
      · rw [hsilent hw (hnone.1 hf) harmed, State.offersUnordered_nil]
        rfl
      · rw [hrest hw (hnone.1 hf), State.offersUnordered_nil]
        rfl
      · rw [harms hw (mt hnone.2 hf), State.offersUnordered_nil]
        rfl

end Sys2Proof.Machine
end

section
/-! PROOFS. CONFIGURE: the fields in the order of their checks, the subscription entries, and the image taken. -/

namespace Sys2Proof.Machine

variable {s : State} {V : Nat → Prop} {field : Nat} {p : List Byte}

/-! ## The fields in order (R166) -/

/-- What a CONFIGURE whose fields are valid by `V` reads: the first invalid field, or all valid and the outcome `P`. -/
def FieldsRead (V : Nat → Prop) (P : Except (Nat × Byte) Image → Prop) (x : Except (Nat × Byte) Image) : Prop :=
  (∃ m, ¬V m ∧ (∀ k, k < m → V k) ∧ x = .error (m, absent)) ∨ ((∀ m, V m) ∧ P x)

theorem FieldsRead.error {P : Except (Nat × Byte) Image → Prop} {x : Except (Nat × Byte) Image}
    (h : FieldsRead V P x) (hbad : ¬V field) (hbelow : ∀ m, m < field → V m) : x = .error (field, absent) := by
  rcases h with ⟨m, hm, hk, hx⟩ | ⟨hall, -⟩
  · rcases Nat.lt_trichotomy m field with hlt | rfl | hlt
    · exact absurd (hbelow m hlt) hm
    · exact hx
    · exact absurd (hk field hlt) hbad
  · exact absurd (hall field) hbad

theorem FieldsRead.all {P : Except (Nat × Byte) Image → Prop} {x : Except (Nat × Byte) Image}
    (h : FieldsRead V P x) (hall : ∀ m, V m) : P x := by
  rcases h with ⟨m, hm, -⟩ | ⟨-, hx⟩
  · exact absurd (hall m) hm
  · exact hx

/-- A check that yields `a` when its field is valid, and else names the field. -/
def FieldCheck {α : Type} (v : Prop) (field : Nat) (e : Except (Nat × Byte) α) : Prop :=
  (¬v ∧ e = .error (field, absent)) ∨ (v ∧ ∃ a, e = .ok a)

/-- One field after those below it. -/
theorem FieldsRead.bind {α : Type} {P : Except (Nat × Byte) Image → Prop} {e : Except (Nat × Byte) α}
    {f : α → Except (Nat × Byte) Image} (hbelow : ∀ k, k < field → V k) (he : FieldCheck (V field) field e)
    (next : ∀ a, e = .ok a → (∀ k, k < field + 1 → V k) → FieldsRead V P (f a)) : FieldsRead V P (e.bind f) := by
  rcases he with ⟨hbad, rfl⟩ | ⟨hok, a, rfl⟩
  · exact .inl ⟨field, hbad, hbelow, rfl⟩
  · exact next a rfl fun k hk => (Nat.lt_succ_iff_lt_or_eq.1 hk).elim (hbelow k) fun h => h ▸ hok

/-- A field that is always valid. -/
theorem below_succ (hbelow : ∀ k, k < field → V k) (h : V field) : ∀ k, k < field + 1 → V k :=
  fun k hk => (Nat.lt_succ_iff_lt_or_eq.1 hk).elim (hbelow k) fun heq => heq ▸ h

theorem ranged_check {lo hi : Nat} (b : Byte) {v : Prop} (hv : v ↔ lo ≤ b.toNat ∧ b.toNat ≤ hi) :
    FieldCheck v field (ranged field lo hi b) := by
  unfold ranged FieldCheck
  rw [hv]
  split
  · next h => exact .inr ⟨h, _, rfl⟩
  · next h => exact .inl ⟨h, rfl⟩

theorem coded_check {α : Type} {o : Option α} {v : Prop} (hv : v ↔ o.isSome = true) :
    FieldCheck v field (coded field o) := by
  unfold coded FieldCheck
  rw [hv]
  cases o with
  | some a => exact .inr ⟨rfl, a, rfl⟩
  | none => exact .inl ⟨nofun, rfl⟩

theorem Role.ofByte_isSome (b : Byte) : b.toNat ≤ 1 ↔ (Role.ofByte b).isSome = true := by
  unfold Role.ofByte
  split
  · next h => simp [h]
  · next h => simp [h]
  · next h0 h1 => exact ⟨fun h => (Nat.le_one_iff_eq_zero_or_eq_one.1 h).elim (absurd · h0) (absurd · h1), nofun⟩

theorem SlotCount.ofByte_isSome (b : Byte) :
    b.toNat = 8 ∨ b.toNat = 16 ∨ b.toNat = 32 ↔ (SlotCount.ofByte b).isSome = true := by
  unfold SlotCount.ofByte
  split
  · next h => simp [h]
  · next h => simp [h]
  · next h => simp [h]
  · next h0 h1 h2 => exact ⟨fun h => h.elim (absurd · h0) fun h => h.elim (absurd · h1) (absurd · h2), nofun⟩

theorem Payload.ofByte_isSome (b : Byte) :
    b.toNat = 24 ∨ b.toNat = 48 ∨ b.toNat = 96 ↔ (Payload.ofByte b).isSome = true := by
  unfold Payload.ofByte
  split
  · next h => simp [h]
  · next h => simp [h]
  · next h => simp [h]
  · next h0 h1 h2 => exact ⟨fun h => h.elim (absurd · h0) fun h => h.elim (absurd · h1) (absurd · h2), nofun⟩

theorem SlotCount.min_four (c : SlotCount) : min 4 (c.toNat - 1) = 4 := by cases c <;> rfl

/-- R166: the fields of a CONFIGURE, by their numbers; field 16 is the subscription entries. -/
def FieldValid (p : List Byte) (field : Nat) : Prop :=
  match field with
  | 1 => (byteAt p 0).toNat ≤ 31
  | 2 => (byteAt p 1).toNat ≤ 1
  | 3 => (byteAt p 2).toNat ≤ 3
  | 4 => (byteAt p 3).toNat = 8 ∨ (byteAt p 3).toNat = 16 ∨ (byteAt p 3).toNat = 32
  | 5 => (byteAt p 4).toNat = 24 ∨ (byteAt p 4).toNat = 48 ∨ (byteAt p 4).toNat = 96
  | 6 => 1 ≤ (byteAt p 5).toNat ∧ (byteAt p 5).toNat ≤ 4
  | 7 => 2 ≤ (byteAt p 6).toNat ∧ (byteAt p 6).toNat ≤ 8
  | 8 => (byteAt p 7).toNat ≤ 3
  | 9 => 2 ≤ (byteAt p 8).toNat ∧ (byteAt p 8).toNat ≤ 16
  | 10 => 1 ≤ (byteAt p 9).toNat ∧ (byteAt p 9).toNat ≤ 32
  | 12 => (byteAt p 13).toNat ≤ 1
  | 13 => (byteAt p 14).toNat ≤ 2
  | 15 => (byteAt p 31).toNat ≤ 8
  | _ => True

theorem FieldValid.zero_le (n : Nat) {hi : Nat} : n ≤ hi ↔ 0 ≤ n ∧ n ≤ hi := ⟨fun h => ⟨Nat.zero_le _, h⟩, And.right⟩

theorem ranged_ok {lo hi n : Nat} {b : Byte} (h : ranged field lo hi b = .ok n) : n = b.toNat := by
  unfold ranged at h
  split at h
  · cases h
    rfl
  · cases h

/-- R166: the fields are checked in their order, and then the subscription entries. -/
theorem Image.ofBytes_fields (p : List Byte) : FieldsRead (FieldValid p) (fun x =>
    (∀ i, subscriptionsOf (byteAt p 31).toNat [] (p.drop 32) = .error i → x = .error (16, byte i)) ∧
    ∀ subs, subscriptionsOf (byteAt p 31).toNat [] (p.drop 32) = .ok subs → ∃ im, x = .ok im) (Image.ofBytes p) := by
  have hzero : ∀ k, k < 1 → FieldValid p k := fun k hk => by
    obtain rfl : k = 0 := by omega
    trivial
  refine .bind hzero (ranged_check _ (FieldValid.zero_le _)) fun station _ h1 => ?_
  refine .bind h1 (coded_check (Role.ofByte_isSome _)) fun role _ h2 => ?_
  refine .bind h2 (ranged_check _ (FieldValid.zero_le _)) fun rate _ h3 => ?_
  refine .bind h3 (coded_check (SlotCount.ofByte_isSome _)) fun slots _ h4 => ?_
  refine .bind h4 (coded_check (Payload.ofByte_isSome _)) fun payload _ h5 => ?_
  refine .bind h5 (ranged_check _ (by rw [slots.min_four]; exact Iff.rfl)) fun wanted _ h6 => ?_
  refine .bind h6 (ranged_check _ Iff.rfl) fun k _ h7 => ?_
  refine .bind h7 (ranged_check _ (FieldValid.zero_le _)) fun r _ h8 => ?_
  refine .bind h8 (ranged_check _ Iff.rfl) fun d _ h9 => ?_
  refine .bind h9 (ranged_check _ Iff.rfl) fun watermark _ h10 => ?_
  refine .bind (below_succ h10 trivial) (ranged_check _ (FieldValid.zero_le _)) fun firing _ h12 => ?_
  refine .bind h12 (ranged_check _ (FieldValid.zero_le _)) fun pwm _ h13 => ?_
  refine .bind (below_succ h13 trivial) (ranged_check _ (FieldValid.zero_le _)) fun count hcount h15 => ?_
  obtain rfl := ranged_ok hcount
  refine .inr ⟨fun m => ?_, fun i hi => ?_, fun subs hsubs => ?_⟩
  · by_cases hm : m < 16
    · exact h15 m hm
    · obtain ⟨n, rfl⟩ := Nat.exists_eq_add_of_le (Nat.not_lt.1 hm)
      rw [Nat.add_comm]
      trivial
  · rw [hi]
  · rw [hsubs]
    exact ⟨_, rfl⟩

/-! ## The subscription entries in order (R167) -/

theorem mappedChannel_isSome (b : Byte) : (mappedChannel b).isSome = true ↔ b.toNat ≤ 7 ∨ b.toNat = 255 := by
  unfold mappedChannel
  split
  · next h => exact iff_of_true rfl (.inl (by omega))
  · next h =>
    split
    · next hb => exact iff_of_true rfl (.inr (by rw [hb]; rfl))
    · next hb =>
      refine iff_of_false nofun fun hor => hor.elim (fun hle => h (by omega)) fun heq => hb ?_
      exact BitVec.eq_of_toNat_eq heq

theorem mappedChannel_channel {b : Byte} {c : Option Channel} (h : mappedChannel b = some c) :
    c.isSome = true ↔ b.toNat ≤ 7 := by
  unfold mappedChannel at h
  split at h
  · next hb =>
    cases h
    exact iff_of_true rfl (by omega)
  · next hb =>
    split at h
    · cases h
      exact iff_of_false nofun (by omega)
    · cases h

/-- R167: an entry that may stand after the entries before it, by its five bytes. -/
structure EntryFits (before : List Subscription) (q : List Byte) : Prop where
  group : byteAt q 0 ≠ 0
  new : ∀ x ∈ before, x.group ≠ byteAt q 0
  codes : ∀ j, 1 ≤ j → j ≤ 4 → (byteAt q j).toNat ≤ 7 ∨ (byteAt q j).toNat = 255
  mapped : ∃ j, 1 ≤ j ∧ j ≤ 4 ∧ (byteAt q j).toNat ≤ 7

theorem one_of_four {P : Nat → Prop} : (∃ j, 1 ≤ j ∧ j ≤ 4 ∧ P j) ↔ P 1 ∨ P 2 ∨ P 3 ∨ P 4 := by
  constructor
  · rintro ⟨j, hlo, hhi, hj⟩
    interval_cases j
    · exact .inl hj
    · exact .inr (.inl hj)
    · exact .inr (.inr (.inl hj))
    · exact .inr (.inr (.inr hj))
  · rintro (h | h | h | h)
    · exact ⟨1, by omega, by omega, h⟩
    · exact ⟨2, by omega, by omega, h⟩
    · exact ⟨3, by omega, by omega, h⟩
    · exact ⟨4, by omega, by omega, h⟩

theorem subscriptionOf_cases (before : List Subscription) (q : List Byte) :
    (subscriptionOf before q = none ∧ ¬EntryFits before q) ∨
    (EntryFits before q ∧ ∃ e, subscriptionOf before q = some e ∧ e.group = byteAt q 0) := by
  unfold subscriptionOf
  split
  · next a b c d ha hb hc hd =>
    dsimp only
    split_ifs with hzero hused hnone
    · exact .inl ⟨rfl, fun h => h.group hzero⟩
    · obtain ⟨x, hx, heq⟩ := List.any_eq_true.1 hused
      exact .inl ⟨rfl, fun h => h.new x hx (beq_iff_eq.1 heq)⟩
    · refine .inl ⟨rfl, fun h => ?_⟩
      simp only [Bool.and_eq_true, Option.isNone_iff_eq_none] at hnone
      obtain ⟨⟨⟨rfl, rfl⟩, rfl⟩, rfl⟩ := hnone
      rcases one_of_four.1 h.mapped with hm | hm | hm | hm
      · exact nomatch (mappedChannel_channel ha).2 hm
      · exact nomatch (mappedChannel_channel hb).2 hm
      · exact nomatch (mappedChannel_channel hc).2 hm
      · exact nomatch (mappedChannel_channel hd).2 hm
    · refine .inr ⟨⟨hzero, by simpa using hused, fun j hlo hhi => ?_, one_of_four.2 ?_⟩, _, rfl, rfl⟩
      · rw [← mappedChannel_isSome]
        interval_cases j
        · rw [ha]; rfl
        · rw [hb]; rfl
        · rw [hc]; rfl
        · rw [hd]; rfl
      · rw [← mappedChannel_channel ha, ← mappedChannel_channel hb, ← mappedChannel_channel hc,
          ← mappedChannel_channel hd]
        simpa [Option.isSome_iff_ne_none, or_iff_not_imp_left, and_assoc] using hnone
  · next hmatch =>
    refine .inl ⟨rfl, fun h => ?_⟩
    obtain ⟨a, ha⟩ := Option.isSome_iff_exists.1 ((mappedChannel_isSome _).2 (h.codes 1 (by omega) (by omega)))
    obtain ⟨b, hb⟩ := Option.isSome_iff_exists.1 ((mappedChannel_isSome _).2 (h.codes 2 (by omega) (by omega)))
    obtain ⟨c, hc⟩ := Option.isSome_iff_exists.1 ((mappedChannel_isSome _).2 (h.codes 3 (by omega) (by omega)))
    obtain ⟨d, hd⟩ := Option.isSome_iff_exists.1 ((mappedChannel_isSome _).2 (h.codes 4 (by omega) (by omega)))
    exact hmatch a b c d ha hb hc hd

/-- R167: entry `i` of those that begin at byte 32, by the values of the bytes. -/
def EntryValid (value : Nat → Nat) (i : Nat) : Prop :=
  value (32 + 5 * i + 0) ≠ 0 ∧ (∀ k, k < i → value (32 + 5 * k + 0) ≠ value (32 + 5 * i + 0)) ∧
  (∀ j, 1 ≤ j → j ≤ 4 → value (32 + 5 * i + j) ≤ 7 ∨ value (32 + 5 * i + j) = 255) ∧
  ∃ j, 1 ≤ j ∧ j ≤ 4 ∧ value (32 + 5 * i + j) ≤ 7

theorem byteAt_drop (p : List Byte) (n j : Nat) : byteAt (p.drop n) j = byteAt p (n + j) := by
  simp [byteAt, List.getD_eq_getElem?_getD, List.getElem?_drop]

theorem entryFits_iff {before : List Subscription} {i : Nat}
    (hgroups : before.map Subscription.group = (List.range i).map fun k => byteAt p (32 + 5 * k)) :
    EntryFits before (p.drop (32 + 5 * i)) ↔ EntryValid (fun k => (byteAt p k).toNat) i := by
  have hnew : (∀ x ∈ before, x.group ≠ byteAt p (32 + 5 * i + 0)) ↔
      ∀ k, k < i → (byteAt p (32 + 5 * k + 0)).toNat ≠ (byteAt p (32 + 5 * i + 0)).toNat := by
    calc (∀ x ∈ before, x.group ≠ byteAt p (32 + 5 * i + 0))
        ↔ ∀ g ∈ before.map Subscription.group, g ≠ byteAt p (32 + 5 * i + 0) := by simp
      _ ↔ _ := by simp [hgroups, BitVec.toNat_inj]
  constructor
  · rintro ⟨hg, hn, hc, hm⟩
    simp only [byteAt_drop] at hg hn hc hm
    exact ⟨fun h => hg (BitVec.eq_of_toNat_eq h), hnew.1 hn, hc, hm⟩
  · rintro ⟨hg, hn, hc, hm⟩
    refine ⟨?_, ?_, ?_, ?_⟩
    all_goals simp only [byteAt_drop]
    · exact fun h => hg (congrArg BitVec.toNat h)
    · exact hnew.2 hn
    · exact hc
    · exact hm

/-- R167: the entries in order, up to the first that is invalid. -/
theorem subscriptionsOf_entries {before : List Subscription} {i n : Nat} (hlen : before.length = i)
    (hgroups : before.map Subscription.group = (List.range i).map fun k => byteAt p (32 + 5 * k)) :
    (∃ j, i ≤ j ∧ j < i + n ∧ ¬EntryValid (fun k => (byteAt p k).toNat) j ∧
      (∀ k, i ≤ k → k < j → EntryValid (fun k => (byteAt p k).toNat) k) ∧
      subscriptionsOf n before (p.drop (32 + 5 * i)) = .error j) ∨
    ((∀ k, i ≤ k → k < i + n → EntryValid (fun k => (byteAt p k).toNat) k) ∧
      ∃ subs, subscriptionsOf n before (p.drop (32 + 5 * i)) = .ok subs) := by
  induction n generalizing before i with
  | zero => exact .inr ⟨fun k hlo hhi => absurd hhi (by omega), _, rfl⟩
  | succ n ih =>
    have hfits := entryFits_iff (p := p) hgroups
    unfold subscriptionsOf
    rcases subscriptionOf_cases before (p.drop (32 + 5 * i)) with ⟨hnone, hbad⟩ | ⟨hok, e, he, hgroup⟩
    · rw [hnone]
      exact .inl ⟨i, le_rfl, by omega, mt hfits.2 hbad, fun k hlo hhi => absurd hhi (by omega), by rw [← hlen]⟩
    · rw [he]
      have hgroups' : (before ++ [e]).map Subscription.group = (List.range (i + 1)).map fun k => byteAt p (32 + 5 * k) := by
        rw [List.map_append, hgroups, List.range_succ, List.map_append, List.map_singleton, List.map_singleton, hgroup,
          byteAt_drop]
        rfl
      have hdrop : (p.drop (32 + 5 * i)).drop 5 = p.drop (32 + 5 * (i + 1)) := by
        rw [List.drop_drop]
        exact congrArg p.drop (by omega)
      have hthis : ∀ k, i ≤ k → k < i + 1 → EntryValid (fun k => (byteAt p k).toNat) k := fun k hlo hhi => by
        obtain rfl : k = i := by omega
        exact hfits.1 hok
      dsimp only
      rw [hdrop]
      rcases ih (before := before ++ [e]) (by simp [hlen]) hgroups' with ⟨j, hlo, hhi, hbad, hbelow, herr⟩ | ⟨hall, subs, hsubs⟩
      · refine .inl ⟨j, by omega, by omega, hbad, fun k hk hj => ?_, herr⟩
        exact (Nat.lt_or_ge k (i + 1)).elim (hthis k hk) fun h => hbelow k h hj
      · refine .inr ⟨fun k hk hj => ?_, subs, hsubs⟩
        exact (Nat.lt_or_ge k (i + 1)).elim (hthis k hk) fun h => hall k h (by omega)

/-! ## CONFIGURE (R144, R166) -/

theorem State.takeConfigure_eq (hstate : s.sc.state = .config) (p : List Byte) :
    (∀ e, Image.ofBytes p = .error e → s.takeConfigure p = s.answered 0x02 .badConfig [byte e.1, e.2]) ∧
    (∀ im, Image.ofBytes p = .ok im → s.takeConfigure p = (s.configureWith im).answered 0x02 .ok []) := by
  rw [State.takeConfigure, if_neg (by simp [hstate])]
  refine ⟨fun e he => ?_, fun im him => ?_⟩
  · rw [he, ← State.respond_eq_answered]
  · rw [him, ← State.respond_eq_answered]

/-- R179: the level of ATN after a CONFIGURE. -/
theorem EventQueue.wantsAttention_iff (q : EventQueue) : q.wantsAttention = true ↔
    q.watermark ≤ q.records.length ∨ ∃ r ∈ q.records, q.urgent.getLsbD r.kindCode = true := by
  simp [EventQueue.wantsAttention]

/-- Settles O6: the image is read field by field, and in CONFIG the outcome of the reading is the command's. -/
theorem configureTakenOrRefused : Obligations.ConfigureTakenOrRefused := by
  intro rest tail s h hlen
  have hrow : exec (.configure rest tail) s = .next ((s.clockedIn (0x02 :: rest) tail).takeConfigure rest) := by
    simp only [exec, execConfigure]
    rw [State.command_taken h hlen]
  have hconfig : s.sc.state = .config → (s.clockedIn (0x02 :: rest) tail).sc.state = .config := id
  have herror : ∀ field place, s.sc.state = .config → Image.ofBytes rest = .error (field, place) →
      exec (.configure rest tail) s =
        .next ((s.clockedIn (0x02 :: rest) tail).answered 0x02 .badConfig [byte field, place]) :=
    fun field place hs he => by rw [hrow, (State.takeConfigure_eq (hconfig hs) rest).1 _ he]
  refine ⟨fun hs => ?_, herror, ?_, fun im hs him => ?_⟩
  · have hs' : (s.clockedIn (0x02 :: rest) tail).sc.state ≠ .config := hs
    rw [hrow, State.takeConfigure, if_pos hs', State.respond_eq_answered]
  · intro value valid entry validEntry refused
    have hvalid : valid = FieldValid rest := funext fun m => by
      match m with
      | 0 | 1 | 2 | 3 | 4 | 5 | 6 | 7 | 8 | 9 | 10 | 11 | 12 | 13 | 14 | 15 => rfl
      | m + 16 => rfl
    have hfields := Image.ofBytes_fields rest
    have hentries := subscriptionsOf_entries (p := rest) (before := []) (i := 0) (n := value 31) rfl rfl
    rw [hvalid]
    refine ⟨fun field hs hbad hbelow => herror field 255 hs (hfields.error hbad hbelow), fun i hs hall hi hbad hbelow => ?_,
      fun hall hok => ?_⟩
    · refine herror 16 (byte i) hs ((hfields.all hall).1 i ?_)
      rcases hentries with ⟨j, -, hj, hjbad, hjbelow, herr⟩ | ⟨hok, -⟩
      · rcases Nat.lt_trichotomy j i with hlt | rfl | hlt
        · exact absurd (hbelow j hlt) hjbad
        · exact herr
        · exact absurd (hjbelow i (Nat.zero_le _) hlt) hbad
      · exact absurd (hok i (Nat.zero_le _) (by omega)) hbad
    · rcases hentries with ⟨j, -, hj, hjbad, -⟩ | ⟨-, subs, hsubs⟩
      · exact absurd (hok j (by omega)) hjbad
      · exact (hfields.all hall).2 subs hsubs
  · refine ⟨(s.configureWith im).ev.atn, EventQueue.wantsAttention_iff _, ?_⟩
    rw [hrow, (State.takeConfigure_eq (hconfig hs) rest).2 im him]
    rfl

end Sys2Proof.Machine
end

section
/-! PROOFS. Round trips: cue templates and configuration images put in bytes and read back. -/

namespace Sys2Proof.Machine

/-! ## Numbers (R187) -/

theorem byte_toNat {n : Nat} (h : n < 256) : (byte n).toNat = n := by
  rw [byte, BitVec.toNat_ofNat, Nat.mod_eq_of_lt h]

theorem byte_of_toNat (b : Byte) : byte b.toNat = b := by simp [byte]

theorem word_be2 {n : Nat} (h : n < 65536) : word (byte (n / 256)) (byte n) = n := by
  simp only [word, byte, BitVec.toNat_ofNat]
  omega

theorem boolCode_bit (b : Bool) : (boolCode b).getLsbD 0 = b := by cases b <;> rfl

theorem boolCode_toNat (b : Bool) : (boolCode b).toNat = b.toNat := by cases b <;> rfl

/-! ## Cue templates (R86) -/

/-- The four bytes of an action's params, read back with its code. -/
theorem Action.ofBytes_bytes {a : Action} (h : a.Lawful) :
    ∃ value paramA paramB count, a.bytes = [value, paramA, paramB, count] ∧
      Action.ofBytes a.code value paramA paramB count = some a := by
  cases a with
  | set v => exact ⟨_, _, _, _, rfl, rfl⟩
  | ramp target n => exact ⟨_, _, _, _, rfl, if_neg h⟩
  | pulse v a b m => exact ⟨_, _, _, _, rfl, if_neg (not_or.2 h)⟩
  | release => exact ⟨_, _, _, _, rfl, rfl⟩

theorem CueTemplate.ofBytes_bytes {slots : Nat} (hslots : slots ≤ 32) {t : CueTemplate} (h : t.Valid slots) :
    CueTemplate.ofBytes slots t.bytes = some t ∧ t.bytes.length = 11 := by
  obtain ⟨value, paramA, paramB, count, hbytes, haction⟩ := Action.ofBytes_bytes h.action
  obtain ⟨hlead1, hlead2⟩ := h.lead
  have hlead : word (byte (t.lead / 256)) (byte t.lead) = t.lead := word_be2 (by omega)
  have hdue : (byte t.contents.dueSlot).toNat = t.contents.dueSlot := byte_toNat (by have := h.dueSlot; omega)
  have hposition : (byte t.contents.position).toNat = t.contents.position := byte_toNat (by omega)
  have heq : t.bytes = [t.contents.group, byte t.contents.position, t.contents.action.code, value, paramA, paramB, count,
      byte t.contents.dueSlot, byte (t.lead / 256), byte t.lead, boolCode t.contents.replace] := by
    rw [CueTemplate.bytes, hbytes]
    rfl
  refine ⟨?_, by rw [heq]; rfl⟩
  have hlt : (byte t.contents.position).toNat < 4 := by omega
  rw [heq]
  simp only [CueTemplate.ofBytes, byteAt, List.getD_cons_succ, List.getD_cons_zero, haction, hposition, hdue, hlead,
    boolCode_bit]
  exact (dif_pos t.contents.position.isLt).trans (if_pos ⟨h.group, h.dueSlot, h.lead⟩)

/-- Settles O47: the round trip field by field. -/
theorem templateRoundTrip : Obligations.TemplateRoundTrip := fun _ hslots =>
  ⟨fun _ h => CueTemplate.ofBytes_bytes hslots h, fun _ _ h => CueTemplate.valid_of_ofBytes h⟩

/-! ## Subscription entries (R167) -/

/-- The byte of a position that an entry maps, or does not. -/
def channelCode (c : Option Channel) : Byte :=
  match c with
  | none => 0xFF
  | some k => byte k.val

theorem mappedChannel_channelCode (c : Option Channel) : mappedChannel (channelCode c) = some c := by
  cases c with
  | none => rfl
  | some k =>
    have hk : (byte k.val).toNat = k.val := byte_toNat (by omega)
    simp only [mappedChannel, channelCode, hk, k.isLt, dif_pos]

theorem Subscription.bytes_eq (e : Subscription) :
    e.bytes = [e.group, channelCode e.pos0, channelCode e.pos1, channelCode e.pos2, channelCode e.pos3] := rfl

theorem subscriptionOf_bytes {before : List Subscription} {e : Subscription} (h : e.Mapped)
    (hnew : ∀ x ∈ before, x.group ≠ e.group) (rest : List Byte) : subscriptionOf before (e.bytes ++ rest) = some e := by
  have hbytes : e.bytes ++ rest = e.group :: channelCode e.pos0 :: channelCode e.pos1 :: channelCode e.pos2 ::
      channelCode e.pos3 :: rest := rfl
  simp only [hbytes, subscriptionOf, byteAt, List.getD_cons_succ, List.getD_cons_zero, mappedChannel_channelCode]
  rw [if_neg h.1, if_neg (by simpa using hnew), if_neg]
  have hmapped := h.2
  simp only [Option.isSome_iff_ne_none] at hmapped
  simp only [Bool.and_eq_true, Option.isNone_iff_eq_none, and_assoc]
  tauto

theorem subscriptionsOf_bytes {subs before : List Subscription} (hmapped : ∀ e ∈ subs, e.Mapped)
    (hgroups : ((before ++ subs).map Subscription.group).Nodup) :
    subscriptionsOf subs.length before (subs.flatMap Subscription.bytes) = .ok (before ++ subs) := by
  induction subs generalizing before with
  | nil => simp [subscriptionsOf]
  | cons e es ih =>
    have hnew : ∀ x ∈ before, x.group ≠ e.group := fun x hx => by
      rw [List.map_append, List.nodup_append] at hgroups
      exact hgroups.2.2 _ (List.mem_map_of_mem hx) _ (by simp)
    have hread := subscriptionOf_bytes (hmapped e (by simp)) hnew (es.flatMap Subscription.bytes)
    have hdrop : (e.bytes ++ es.flatMap Subscription.bytes).drop 5 = es.flatMap Subscription.bytes := rfl
    rw [List.flatMap_cons, List.length_cons, subscriptionsOf, hread]
    dsimp only
    rw [hdrop, ih (fun x hx => hmapped x (by simp [hx])) (by simpa using hgroups)]
    simp

/-! ## The image (R166) -/

theorem ranged_eq {field lo hi n : Nat} {b : Byte} (hb : b.toNat = n) (h : lo ≤ n ∧ n ≤ hi) :
    ranged field lo hi b = .ok n := by
  rw [ranged, hb, if_pos h]

theorem settings_bits (p : Polarity) (q : FaultPolicy) :
    (p.code + 2 * q.code).getLsbD 0 = (p == .activeLow) ∧ (p.code + 2 * q.code).getLsbD 1 = (q == .safe) := by
  cases p <;> cases q <;> decide

theorem settingsOf_bytes (c : ChanSettings) :
    settingsOf (c.polarity.code + 2 * c.policy.code) c.safeLevel = c := by
  obtain ⟨polarity, policy, level⟩ := c
  simp only [settingsOf, settings_bits, beq_iff_eq, ChanSettings.mk.injEq, and_true]
  exact ⟨by cases polarity <;> rfl, by cases policy <;> rfl⟩

theorem Role.ofByte_code (r : Role) : Role.ofByte r.code = some r := by cases r <;> rfl

theorem SlotCount.ofByte_byte (c : SlotCount) : SlotCount.ofByte (byte c.toNat) = some c := by cases c <;> rfl

theorem Payload.ofByte_byte (c : Payload) : Payload.ofByte (byte c.toNat) = some c := by cases c <;> rfl

theorem urgent_append (u : BitVec 24) : u.extractLsb' 16 8 ++ u.extractLsb' 8 8 ++ u.extractLsb' 0 8 = u := by
  refine BitVec.eq_of_getLsbD_eq fun i hi => ?_
  simp only [BitVec.getLsbD_append, BitVec.getLsbD_extractLsb']
  rcases Nat.lt_or_ge i 8 with h | h
  · simp [h]
  · rcases Nat.lt_or_ge i 16 with h' | h'
    · have : i - 8 < 8 := by omega
      have hadd : 8 + (i - 8) = i := by omega
      simp [Nat.not_lt.2 h, this, hadd]
    · have h8 : ¬i - 8 < 8 := by omega
      have hlt : i - 8 - 8 < 8 := by omega
      have hadd : 16 + (i - 8 - 8) = i := by omega
      simp [Nat.not_lt.2 h, h8, hlt, hadd]

/-- The byte of a channel's settings. -/
def ChanSettings.flags (c : ChanSettings) : Byte := c.polarity.code + 2 * c.policy.code

/-- R166: the 32 bytes before the subscription entries, each in its place. -/
theorem Image.bytes_eq (im : Image) : im.bytes =
    im.station.setWidth 8 :: im.role.code :: byte im.bitRate.val :: byte im.slots.toNat :: byte im.payload.toNat ::
    byte im.wanted :: byte im.silenceLimit :: byte im.retries :: byte im.window :: byte im.watermark ::
    im.urgent.extractLsb' 16 8 :: im.urgent.extractLsb' 8 8 :: im.urgent.extractLsb' 0 8 ::
    boolCode im.reportFiring :: byte im.pwmRate.val ::
    im.channels.c0.flags :: im.channels.c0.safeLevel :: im.channels.c1.flags :: im.channels.c1.safeLevel ::
    im.channels.c2.flags :: im.channels.c2.safeLevel :: im.channels.c3.flags :: im.channels.c3.safeLevel ::
    im.channels.c4.flags :: im.channels.c4.safeLevel :: im.channels.c5.flags :: im.channels.c5.safeLevel ::
    im.channels.c6.flags :: im.channels.c6.safeLevel :: im.channels.c7.flags :: im.channels.c7.safeLevel ::
    byte im.subscriptions.length :: im.subscriptions.flatMap Subscription.bytes := by
  simp only [Image.bytes, ChanSettings.bytes, List.cons_append, List.nil_append, ChanSettings.flags]

/-- R167: the number fields of a valid image are read back as they are. -/
theorem Image.numbers_read {im : Image} (h : im.Valid) :
    ranged 1 0 31 (im.station.setWidth 8) = .ok im.station.toNat ∧
    ranged 3 0 3 (byte im.bitRate.val) = .ok im.bitRate.val ∧
    ranged 6 1 4 (byte im.wanted) = .ok im.wanted ∧
    ranged 7 2 8 (byte im.silenceLimit) = .ok im.silenceLimit ∧
    ranged 8 0 3 (byte im.retries) = .ok im.retries ∧
    ranged 9 2 16 (byte im.window) = .ok im.window ∧
    ranged 10 1 32 (byte im.watermark) = .ok im.watermark ∧
    ranged 12 0 1 (boolCode im.reportFiring) = .ok im.reportFiring.toNat ∧
    ranged 13 0 2 (byte im.pwmRate.val) = .ok im.pwmRate.val ∧
    ranged 15 0 8 (byte im.subscriptions.length) = .ok im.subscriptions.length := by
  obtain ⟨hw1, hw2⟩ := h.wanted
  obtain ⟨hk1, hk2⟩ := h.silenceLimit
  obtain ⟨hd1, hd2⟩ := h.window
  obtain ⟨hm1, hm2⟩ := h.watermark
  have hr := h.retries
  have hn := h.subscriptions
  have hstation : (im.station.setWidth 8).toNat = im.station.toNat := BitVec.toNat_setWidth_of_le (by omega)
  refine ⟨ranged_eq hstation ⟨by omega, by omega⟩, ranged_eq (byte_toNat (by omega)) ⟨by omega, by omega⟩,
    ranged_eq (byte_toNat (by omega)) ⟨hw1, hw2⟩, ranged_eq (byte_toNat (by omega)) ⟨hk1, hk2⟩,
    ranged_eq (byte_toNat (by omega)) ⟨by omega, hr⟩, ranged_eq (byte_toNat (by omega)) ⟨hd1, hd2⟩,
    ranged_eq (byte_toNat (by omega)) ⟨hm1, hm2⟩, ranged_eq (boolCode_toNat _) ⟨by omega, Bool.toNat_le _⟩,
    ranged_eq (byte_toNat (by omega)) ⟨by omega, by omega⟩, ranged_eq (byte_toNat (by omega)) ⟨by omega, hn⟩⟩

theorem Image.ofBytes_bytes {im : Image} (h : im.Valid) : Image.ofBytes im.bytes = .ok im := by
  obtain ⟨h1, h3, h6, h7, h8, h9, h10, h12, h13, h15⟩ := Image.numbers_read h
  have hsubs : subscriptionsOf im.subscriptions.length [] (im.subscriptions.flatMap Subscription.bytes) =
      .ok im.subscriptions := subscriptionsOf_bytes h.mapped h.groups
  have hfired : (im.reportFiring.toNat == 1) = im.reportFiring := by cases im.reportFiring <;> rfl
  have hsettings : ∀ c : ChanSettings, settingsOf c.flags c.safeLevel = c := settingsOf_bytes
  have hstation : BitVec.ofNat 5 im.station.toNat = im.station := by simp
  have hrate : Fin.ofNat 4 im.bitRate.val = im.bitRate := by simp
  have hpwm : Fin.ofNat 3 im.pwmRate.val = im.pwmRate := by simp
  rw [Image.bytes_eq]
  simp only [Image.ofBytes, byteAt, List.getD_cons_succ, List.getD_cons_zero, List.drop_succ_cons, List.drop_zero, coded,
    Role.ofByte_code, SlotCount.ofByte_byte, Payload.ofByte_byte, SlotCount.min_four, h1, h3, h6, h7, h8, h9, h10, h12, h13,
    h15, hsubs, hfired, urgent_append, hsettings, hstation, hrate, hpwm, Except.bind]

theorem Subscription.flatMap_bytes_length (subs : List Subscription) :
    (subs.flatMap Subscription.bytes).length = 5 * subs.length := by
  induction subs with
  | nil => rfl
  | cons e es ih =>
    rw [List.flatMap_cons, List.length_append, ih, List.length_cons, Subscription.bytes_eq]
    simp only [List.length_cons, List.length_nil]
    omega

/-- Settles O46: every field and every entry is read back as it was. -/
theorem configureRoundTrip : Obligations.ConfigureRoundTrip := by
  refine ⟨fun im h => ⟨Image.ofBytes_bytes h, ?_, ?_⟩, fun _ _ h => Image.valid_of_ofBytes h⟩
  · have hn := h.subscriptions
    have hcount : im.bytes[31]? = some (byte im.subscriptions.length) := by
      rw [Image.bytes_eq]
      rfl
    have hvalue : (byte im.subscriptions.length).toNat = im.subscriptions.length := byte_toNat (by omega)
    simp only [announced, hcount, hvalue, hn, if_true]
  · have hlen : im.bytes.length = 32 + (im.subscriptions.flatMap Subscription.bytes).length := by
      rw [Image.bytes_eq, Nat.add_comm]
      rfl
    rw [hlen, Subscription.flatMap_bytes_length]

end Sys2Proof.Machine
end

section
/-! PROOFS. Frames put on the line and read by their hearers: the CRC, the items, the bits of a byte. -/

namespace Sys2Proof.Machine

/-! ## The CRC tells frames apart (R127) -/

theorem crcBit_eq (a : Word16) (b : Bool) : crcBit a b = (a <<< 1) ^^^ (if a.msb ^^ b then 0x1021 else 0) := by
  unfold crcBit
  split <;> simp

/-- The lowest bit of the accumulator is the bit that was fed back. -/
theorem crcBit_low (a : Word16) (b : Bool) : (crcBit a b).getLsbD 0 = (a.msb ^^ b) := by
  rw [crcBit_eq]
  cases h : (a.msb ^^ b) <;> simp

/-- From `n` bits of the accumulator fewer, one more bit back. -/
theorem crcBit_back {a a' : Word16} {b b' : Bool} {n : Nat} (hn : n < 16)
    (h : crcBit a b <<< n = crcBit a' b' <<< n) : (a.msb ^^ b) = (a'.msb ^^ b') ∧ a <<< (n + 1) = a' <<< (n + 1) := by
  have hbit : (a.msb ^^ b) = (a'.msb ^^ b') := by
    have := congrArg (BitVec.getLsbD · n) h
    simpa only [BitVec.getLsbD_shiftLeft, hn, Nat.lt_irrefl, decide_true, decide_false, Bool.not_false, Bool.true_and,
      Nat.sub_self, crcBit_low] using this
  refine ⟨hbit, ?_⟩
  rw [crcBit_eq, crcBit_eq, hbit, BitVec.shiftLeft_xor_distrib, BitVec.shiftLeft_xor_distrib, BitVec.xor_left_inj] at h
  rw [Nat.add_comm, BitVec.shiftLeft_add, BitVec.shiftLeft_add]
  exact h

/-- Over up to 16 bits the accumulator forgets as many bits of its beginning as it takes in, and no two rows of bits from
the same beginning give the same end. -/
theorem foldl_crcBit_back {bs bs' : List Bool} {a a' : Word16} {n : Nat} (hlen : bs.length = bs'.length)
    (hn : n + bs.length ≤ 16) (h : bs.foldl crcBit a <<< n = bs'.foldl crcBit a' <<< n) :
    a <<< (n + bs.length) = a' <<< (n + bs.length) ∧ (a = a' → bs = bs') := by
  induction bs generalizing bs' a a' with
  | nil =>
    obtain rfl := List.length_eq_zero_iff.1 hlen.symm
    exact ⟨h, fun _ => rfl⟩
  | cons b bs ih =>
    obtain _ | ⟨b', bs'⟩ := bs'
    · cases hlen
    · simp only [List.length_cons] at hlen hn
      obtain ⟨hrest, hsame⟩ := ih (bs' := bs') (by omega) (by omega) h
      obtain ⟨hbit, hshift⟩ := crcBit_back (by omega) hrest
      refine ⟨hshift, ?_⟩
      rintro rfl
      have hb : b = b' := by simpa using hbit
      subst hb
      rw [hsame rfl]

theorem crcBit_injective {a a' : Word16} {b : Bool} (h : crcBit a b = crcBit a' b) : a = a' := by
  obtain ⟨hmsb, hshift⟩ := crcBit_back (n := 0) (by omega) (show crcBit a b <<< 0 = crcBit a' b <<< 0 by rw [h])
  have hm : a.msb = a'.msb := by simpa using hmsb
  refine BitVec.eq_of_getLsbD_eq fun i hi => ?_
  rcases Nat.lt_or_ge i 15 with hlt | hge
  · have := congrArg (BitVec.getLsbD · (i + 1)) hshift
    have hlt' : i + 1 < 16 := by omega
    simpa [BitVec.getLsbD_shiftLeft, hlt', BitVec.getLsbD_eq_getElem hi] using this
  · obtain rfl : i = 15 := by omega
    simpa [BitVec.msb_eq_getLsbD_last] using hm

theorem foldl_crcBit_injective {bs : List Bool} {a a' : Word16} (h : bs.foldl crcBit a = bs.foldl crcBit a') : a = a' := by
  induction bs generalizing a a' with
  | nil => exact h
  | cons b bs ih => exact crcBit_injective (ih h)

theorem byteBits_injective {b b' : Byte} (h : byteBits b = byteBits b') : b = b' := by
  refine BitVec.eq_of_getMsbD_eq fun i hi => ?_
  have := congrArg (·[i]?) h
  simpa [byteBits, hi] using this

theorem crcByte_byte_injective {a : Word16} {b b' : Byte} (h : crcByte a b = crcByte a b') : b = b' := by
  have hshift : (byteBits b).foldl crcBit a <<< 0 = (byteBits b').foldl crcBit a <<< 0 := by
    rw [show (byteBits b).foldl crcBit a = (byteBits b').foldl crcBit a from h]
  exact byteBits_injective ((foldl_crcBit_back (by simp [byteBits]) (by simp [byteBits]) hshift).2 rfl)

theorem foldl_crcByte_injective {bs : List Byte} {a a' : Word16} (h : bs.foldl crcByte a = bs.foldl crcByte a') :
    a = a' := by
  induction bs generalizing a a' with
  | nil => exact h
  | cons b bs ih => exact foldl_crcBit_injective (ih h)

/-- R127: a change of one byte changes the CRC. -/
theorem crc16_set_ne {bs : List Byte} {i : Nat} {b : Byte} (hi : i < bs.length) (hb : b ≠ byteAt bs i) :
    crc16 (bs.set i b) ≠ crc16 bs := by
  have hstep : ∀ (bs : List Byte) (i : Nat) (acc : Word16), i < bs.length → b ≠ byteAt bs i →
      (bs.set i b).foldl crcByte acc ≠ bs.foldl crcByte acc := by
    intro bs
    induction bs with
    | nil => intro i acc hi; cases hi
    | cons x xs ih =>
      intro i acc hi hb h
      cases i with
      | zero => exact hb (crcByte_byte_injective (foldl_crcByte_injective h))
      | succ i => exact ih i (crcByte acc x) (by simpa using hi) (by simpa [byteAt] using hb) h
  exact hstep bs i _ hi hb

theorem crcBytes_injective {bs cs : List Byte} (h : crcBytes bs = crcBytes cs) : crc16 bs = crc16 cs := by
  simp only [crcBytes, List.cons.injEq, and_true] at h
  obtain ⟨hhigh, hlow⟩ := h
  refine BitVec.eq_of_getLsbD_eq fun i hi => ?_
  rcases Nat.lt_or_ge i 8 with hlt | hge
  · have := congrArg (BitVec.getLsbD · i) hlow
    simpa only [BitVec.getLsbD_extractLsb', hlt, decide_true, Bool.true_and, Nat.zero_add] using this
  · have := congrArg (BitVec.getLsbD · (i - 8)) hhigh
    have hlt : i - 8 < 8 := by omega
    have hadd : 8 + (i - 8) = i := by omega
    simpa only [BitVec.getLsbD_extractLsb', hlt, decide_true, Bool.true_and, hadd] using this

/-! ## The levels of a byte (R124) -/

/-- R124: the data bits are sampled from the most significant on, a dominant level being a 0. -/
theorem byteOfLevels_getLsbD (ls : List Bool) {i : Nat} (hi : i < 8) :
    (byteOfLevels ls).getLsbD i = ((ls.reverse[i]?).map Bool.not).getD false := by
  induction ls using List.reverseRecOn generalizing i with
  | nil => simp [byteOfLevels]
  | append_singleton ls d ih =>
    have hstep : byteOfLevels (ls ++ [d]) = (byteOfLevels ls <<< 1) ||| (if d then 0 else 1) := by
      simp only [byteOfLevels, List.foldl_append, List.foldl_cons, List.foldl_nil]
    rw [hstep, List.reverse_append, List.reverse_singleton, List.singleton_append]
    cases i with
    | zero => cases d <;> simp
    | succ i =>
      have hrest := ih (i := i) (by omega)
      have hone : (if d then (0 : Byte) else 1).getLsbD (i + 1) = false := by
        cases d
        · simp [BitVec.getLsbD_one]
        · simp
      rw [BitVec.getLsbD_or, hone, Bool.or_false, BitVec.getLsbD_shiftLeft]
      simpa [hi] using hrest

theorem byteOfLevels_bits (b : Byte) : byteOfLevels ((byteBits b).map fun d => !d) = b := by
  refine BitVec.eq_of_getLsbD_eq fun i hi => ?_
  have hat : ((byteBits b).map fun d => !d).reverse[i]? = some !b.getMsbD (7 - i) := by
    have hlen : ((byteBits b).map fun d => !d).length = 8 := by simp [byteBits]
    rw [List.getElem?_reverse (by omega), hlen]
    have hlt : 8 - 1 - i < 8 := by omega
    simp [byteBits, hlt]
  rw [byteOfLevels_getLsbD _ hi, hat]
  have hlt : 7 - i < 8 := by omega
  have hsub : 8 - 1 - (7 - i) = i := by omega
  simp [BitVec.getMsbD, hlt, hsub]

theorem lineBits_levels (b : Byte) : (lineBits b).length = 10 ∧ (lineBits b)[0]? = some true ∧
    (lineBits b)[9]? = some false ∧ ∀ i, i < 8 → (lineBits b)[i + 1]? = some !b.getMsbD i := by
  refine ⟨rfl, rfl, rfl, fun i hi => ?_⟩
  interval_cases i
  all_goals rfl

/-- R124: ten samples read as a byte. -/
theorem readByte_lineBits (b : Byte) (framing : Bool) :
    readByte ((lineBits b).set 9 framing) = some { value := b, framing := framing } := by
  have hvalue : byteOfLevels ((((lineBits b).set 9 framing).drop 1).take 8) = b := byteOfLevels_bits b
  have hstart : ((lineBits b).set 9 framing).getD 0 false = true := rfl
  have hstop : ((lineBits b).set 9 framing).getD 9 false = framing := rfl
  rw [readByte, hstart, if_pos rfl, hvalue, hstop]

/-! ## The items of a slot frame (R137) -/

theorem Action.bytes_length (a : Action) : a.bytes.length = 4 := by cases a <;> rfl

theorem TxItem.bytes_length (i : TxItem) : 2 ≤ i.bytes.length := by
  cases i with
  | release r => exact le_rfl
  | ack id v => exact Nat.le_of_ble_eq_true rfl
  | cancel n => exact Nat.le_of_ble_eq_true rfl
  | cue n retry lead contents =>
    simp only [TxItem.bytes, List.length_append, List.length_cons]
    omega

/-- R187: two bytes side by side. -/
theorem be2_append (n : Nat) : byte (n / 256) ++ byte n = BitVec.ofNat 16 n := by
  refine BitVec.eq_of_toNat_eq ?_
  rw [BitVec.toNat_append, ← Nat.shiftLeft_add_eq_or_of_lt (BitVec.isLt _), Nat.shiftLeft_eq]
  simp only [byte, BitVec.toNat_ofNat]
  omega

theorem ofNat_extract_low (n : Nat) : (BitVec.ofNat 16 n).extractLsb' 0 10 = BitVec.ofNat 10 n := by
  refine BitVec.eq_of_toNat_eq ?_
  rw [BitVec.extractLsb'_toNat, Nat.shiftRight_zero, BitVec.toNat_ofNat, BitVec.toNat_ofNat]
  omega

theorem ofNat_bit {n i : Nat} (hi : i < 16) : (BitVec.ofNat 16 n).getLsbD i = decide (n / 2 ^ i % 2 = 1) := by
  rw [BitVec.getLsbD_ofNat, Nat.testBit_eq_decide_div_mod_eq, decide_eq_true hi, Bool.true_and]

theorem Verdict.ofCode_code (v : Verdict) : Verdict.ofCode v.code.toNat = some v := by cases v <;> rfl

theorem Verdict.code_lt (v : Verdict) : v.code.toNat < 16 := by cases v <;> decide

theorem Action.code_lt (a : Action) : a.code.toNat < 16 := by
  cases a <;> exact Nat.le_of_ble_eq_true rfl

theorem TxItem.itemOf_release {slots r : Nat} (hslots : slots ≤ 32) (hr : 1 ≤ r ∧ r < slots) (rest : List Byte) :
    itemOf slots (0x04 :: byte r :: rest) = some (.release r) := by
  have hread : itemOf slots (0x04 :: byte r :: rest) = if (0x04 :: byte r :: rest).length < 2 ∨ (byte r).toNat = 0 ∨
      slots ≤ (byte r).toNat then none else some (.release (byte r).toNat) := rfl
  have hlen : (0x04 :: byte r :: rest).length = rest.length + 2 := rfl
  rw [hread, byte_toNat (by omega), if_neg (by omega)]

theorem TxItem.itemOf_cancel (slots : Nat) (n : Serial) (rest : List Byte) :
    itemOf slots (0x02 :: byte (n.toNat / 256) :: byte n.toNat :: rest) = some (.cancel n) := by
  have hword : word (byte (n.toNat / 256)) (byte n.toNat) = n.toNat := word_be2 (by omega)
  have hread : itemOf slots (0x02 :: byte (n.toNat / 256) :: byte n.toNat :: rest) =
      if rest.length + 3 < 3 ∨ 1023 < word (byte (n.toNat / 256)) (byte n.toNat) then none
      else some (.cancel (BitVec.ofNat 10 (word (byte (n.toNat / 256)) (byte n.toNat)))) := rfl
  rw [hread, hword, if_neg (by omega), BitVec.ofNat_toNat, BitVec.setWidth_eq]

theorem TxItem.itemOf_ack (slots : Nat) (id : CueId) (v : Verdict) (rest : List Byte) :
    itemOf slots ((TxItem.ack id v).bytes ++ rest) = some (.ack id.originator id.serial v) := by
  obtain ⟨m, hm⟩ : ∃ m, m = v.code.toNat * 4096 + id.serial.toNat := ⟨_, rfl⟩
  have hcode := v.code_lt
  have hread : itemOf slots ((TxItem.ack id v).bytes ++ rest) =
      if rest.length + 4 < 4 ∨ 31 < (id.originator.setWidth 8).toNat then none
      else (Verdict.ofCode ((byte ((v.code.toNat * 4096 + id.serial.toNat) / 256) ++
          byte (v.code.toNat * 4096 + id.serial.toNat)).extractLsb' 12 4).toNat).map fun w =>
        .ack (BitVec.ofNat 5 (id.originator.setWidth 8).toNat)
          ((byte ((v.code.toNat * 4096 + id.serial.toNat) / 256) ++
            byte (v.code.toNat * 4096 + id.serial.toNat)).extractLsb' 0 10) w := rfl
  have horiginator : (id.originator.setWidth 8).toNat = id.originator.toNat := BitVec.toNat_setWidth_of_le (by omega)
  have hverdict : ((BitVec.ofNat 16 m).extractLsb' 12 4).toNat = v.code.toNat := by
    rw [BitVec.extractLsb'_toNat, Nat.shiftRight_eq_div_pow, BitVec.toNat_ofNat]
    omega
  have hserial : BitVec.ofNat 10 m = id.serial := by
    refine BitVec.eq_of_toNat_eq ?_
    rw [BitVec.toNat_ofNat]
    omega
  rw [hread, ← hm, be2_append, hverdict, Verdict.ofCode_code, ofNat_extract_low, hserial, horiginator, if_neg (by omega),
    BitVec.ofNat_toNat, BitVec.setWidth_eq]
  rfl

theorem TxItem.itemOf_cue {slots : Nat} (hslots : slots ≤ 32) {n : Serial} {retry : Bool} {lead : Nat}
    {contents : CueContents} (h : CueTemplate.Valid slots { contents := contents, lead := lead }) (rest : List Byte) :
    itemOf slots ((TxItem.cue n retry lead contents).bytes ++ rest) = some (.cue n retry lead contents) := by
  obtain ⟨value, paramA, paramB, count, hbytes, haction⟩ := Action.ofBytes_bytes h.action
  obtain ⟨m, hm⟩ : ∃ m, m = retry.toNat * 32768 + contents.replace.toNat * 16384 + n.toNat := ⟨_, rfl⟩
  obtain ⟨place, hplace⟩ : ∃ place, place = byte (contents.position.val * 16 + contents.action.code.toNat) := ⟨_, rfl⟩
  have hread : itemOf slots ((TxItem.cue n retry lead contents).bytes ++ rest) =
      cueItemOf slots (0x01 :: byte (m / 256) :: byte m :: contents.group :: place :: byte (lead / 256) :: byte lead ::
        byte contents.dueSlot :: value :: paramA :: paramB :: count :: rest) := by
    rw [TxItem.bytes, hbytes, ← hm, ← hplace]
    exact if_neg (c := rest.length + 12 < 12) (t := none) (by omega)
  obtain ⟨hlead1, hlead2⟩ : 1 ≤ lead ∧ lead ≤ 1023 := h.lead
  have hdueSlot : contents.dueSlot < slots := h.dueSlot
  have hcode := contents.action.code_lt
  have hlead : word (byte (lead / 256)) (byte lead) = lead := word_be2 (by omega)
  have hdue : (byte contents.dueSlot).toNat = contents.dueSlot := byte_toNat (by omega)
  have hplaceNat : place.toNat = contents.position.val * 16 + contents.action.code.toNat := by
    rw [hplace, byte_toNat (by omega)]
  have hposition : (place.extractLsb' 4 4).toNat = contents.position.val := by
    rw [BitVec.extractLsb'_toNat, Nat.shiftRight_eq_div_pow]
    omega
  have haction' : (place.extractLsb' 0 4).setWidth 8 = contents.action.code := by
    refine BitVec.eq_of_toNat_eq ?_
    rw [BitVec.toNat_setWidth, BitVec.extractLsb'_toNat, Nat.shiftRight_zero]
    omega
  have hretry : (BitVec.ofNat 16 m).getLsbD 15 = retry := by
    rw [ofNat_bit (by omega), hm]
    cases retry <;> cases contents.replace <;> simp <;> omega
  have hreplace : (BitVec.ofNat 16 m).getLsbD 14 = contents.replace := by
    rw [ofNat_bit (by omega), hm]
    cases retry <;> cases contents.replace <;> simp <;> omega
  have hserial : BitVec.ofNat 10 m = n := by
    refine BitVec.eq_of_toNat_eq ?_
    rw [BitVec.toNat_ofNat, hm]
    omega
  rw [hread]
  simp only [cueItemOf, byteAt, List.getD_cons_succ, List.getD_cons_zero, be2_append, haction', haction, hlead, hdue, hretry,
    hreplace, ofNat_extract_low, hserial, hposition]
  exact (dif_pos contents.position.isLt).trans (if_pos ⟨h.group, hlead1, hlead2, hdueSlot⟩)

theorem TxItem.itemOf_bytes {slots : Nat} (hslots : slots ≤ 32) {i : TxItem} (h : i.Valid slots) (rest : List Byte) :
    itemOf slots (i.bytes ++ rest) = some i.asRead ∧
    itemSize (byteAt (i.bytes ++ rest) 0) = some i.bytes.length := by
  cases i with
  | release r => exact ⟨TxItem.itemOf_release hslots h rest, rfl⟩
  | ack id v => exact ⟨TxItem.itemOf_ack slots id v rest, rfl⟩
  | cancel n => exact ⟨TxItem.itemOf_cancel slots n rest, rfl⟩
  | cue n retry lead contents =>
    refine ⟨TxItem.itemOf_cue hslots h rest, ?_⟩
    have hlen : (TxItem.cue n retry lead contents).bytes.length = 12 := by
      simp [TxItem.bytes, be2, Action.bytes_length]
    rw [hlen]
    rfl

/-- R137: the items are read in their order, each from where the one before it ended. -/
theorem parseItems_bytes {slots : Nat} (hslots : slots ≤ 32) {items : List TxItem} (h : ∀ i ∈ items, i.Valid slots)
    {fuel : Nat} (hfuel : (items.flatMap TxItem.bytes).length ≤ fuel) :
    parseItems slots fuel (items.flatMap TxItem.bytes) = (items.map TxItem.asRead, false) := by
  induction items generalizing fuel with
  | nil => cases fuel <;> simp [parseItems]
  | cons i is ih =>
    obtain ⟨hitem, hsize⟩ := TxItem.itemOf_bytes hslots (h i (by simp)) (is.flatMap TxItem.bytes)
    have hpos := i.bytes_length
    rw [List.flatMap_cons, List.length_append] at hfuel
    obtain ⟨k, rfl⟩ : ∃ k, fuel = k + 1 := ⟨fuel - 1, by omega⟩
    have hne : (i.bytes ++ is.flatMap TxItem.bytes).isEmpty = false := by
      cases hb : i.bytes with
      | nil => simp [hb] at hpos
      | cons x xs => rfl
    have hrest := ih (fun x hx => h x (by simp [hx])) (fuel := k) (by omega)
    rw [List.flatMap_cons, parseItems, hne, hitem, hsize]
    dsimp only
    rw [List.drop_left, hrest]
    simp

/-! ## The finding on a frame (R134, R188) -/

theorem crcBytes_length (bs : List Byte) : (crcBytes bs).length = 2 := rfl

/-- R127, R134: a slot frame whose bytes before the CRC are `body`. -/
theorem assess_slotFrame {slot slots payload : Nat} {station : Station} {check : Byte} {items : List Byte}
    (hslot : 1 ≤ slot) (hpayload : payload ≤ 96) (hitems : items.length ≤ payload) :
    let body := [station.setWidth 8, check, byte items.length] ++ items
    assess slot slots payload (body ++ crcBytes body) false = .ok (.slotFrame station) := by
  intro body
  have hlen : (byte items.length).toNat = items.length := byte_toNat (by omega)
  have hcount : byteAt (body ++ crcBytes body) 2 = byte items.length := rfl
  have hbody : body.length = items.length + 3 := rfl
  have hbytes : (body ++ crcBytes body).length = items.length + 5 := by
    rw [List.length_append, crcBytes_length, hbody]
  have hstation : (station.setWidth 8).toNat = station.toNat := BitVec.toNat_setWidth_of_le (by omega)
  have hoverlong : overlong slot payload (body ++ crcBytes body) = false :=
    decide_eq_false (by rw [hcount, hlen]; omega)
  have hexpected : expectedBytes slot (body ++ crcBytes body) = some (items.length + 5) := by
    rw [expectedBytes, if_neg (by omega), if_neg (by omega), hcount, hlen]
  have htake : (body ++ crcBytes body).take (items.length + 5 - 2) = body := List.take_left' hbody
  have hdrop : ((body ++ crcBytes body).drop (items.length + 5 - 2)).take 2 = crcBytes body := by
    rw [List.drop_left' (by rw [hbody]; rfl)]
    rfl
  have hfirst : byteAt (body ++ crcBytes body) 0 = station.setWidth 8 := rfl
  simp only [assess, hoverlong, hexpected, hbytes, htake, hdrop, hfirst, hstation]
  rw [if_neg Bool.false_ne_true, if_neg (by simp), if_neg (fun h => h rfl), if_neg (by omega), if_neg (by omega),
    BitVec.ofNat_toNat, BitVec.setWidth_eq]

/-- R115, R134: the five bytes of a claim frame, its CRC bytes being those of `body`. -/
theorem assess_claim {slots payload : Nat} {r z check : Byte} {crc : List Byte} (hcrc : crc.length = 2) :
    (crc ≠ crcBytes [r, z, check] → assess 0 slots payload ([r, z, check] ++ crc) false = .error .crc) ∧
    (crc = crcBytes [r, z, check] → z.toNat ≤ 31 →
      assess 0 slots payload ([r, z, check] ++ crc) false = .ok (.claim r z)) := by
  have hread : assess 0 slots payload ([r, z, check] ++ crc) false =
      if crc.length + 3 < 5 then .error .format
      else if crc.take 2 ≠ crcBytes [r, z, check] then .error .crc
      else if 31 < z.toNat ∧ 1 ≤ r.toNat ∧ r.toNat < slots then .error .format else .ok (.claim r z) := by
    have hoverlong : overlong 0 payload ([r, z, check] ++ crc) = false := decide_eq_false (by simp)
    have hlen : ([r, z, check] ++ crc).length = crc.length + 3 := rfl
    have hexpected : expectedBytes 0 ([r, z, check] ++ crc) = some 5 := rfl
    have hbody : ([r, z, check] ++ crc).take (5 - 2) = [r, z, check] := rfl
    have hrest : ([r, z, check] ++ crc).drop (5 - 2) = crc := rfl
    have hfirst : byteAt ([r, z, check] ++ crc) 0 = r := rfl
    have hsecond : byteAt ([r, z, check] ++ crc) 1 = z := rfl
    simp only [assess, hoverlong, hexpected, hlen, hbody, hrest, hfirst, hsecond, Bool.false_eq_true, false_or, if_false,
      if_true]
  rw [hread, if_neg (by omega), List.take_of_length_le (by omega)]
  exact ⟨fun h => if_pos h, fun h hz => (if_neg fun hne => hne h).trans (if_neg (by omega))⟩

/-- Settles O48: the bytes of a frame, then the levels of a byte. -/
theorem frameRoundTrip : Obligations.FrameRoundTrip := by
  refine ⟨?_, ?_, fun b => ?_⟩
  · rintro ⟨kind, check, items⟩ n slot slots payload station rfl hslot hslots hpayload hfits hvalid bytes
    have hlen : (byte (items.flatMap TxItem.bytes).length).toNat = (items.flatMap TxItem.bytes).length :=
      byte_toNat (Nat.lt_of_le_of_lt (hfits.trans hpayload) (by omega))
    have harea : itemArea bytes = items.flatMap TxItem.bytes := by
      have hcount : byteAt bytes 2 = byte (items.flatMap TxItem.bytes).length := rfl
      rw [itemArea, hcount, hlen]
      exact List.take_left' rfl
    refine ⟨assess_slotFrame hslot hpayload hfits, ?_, rfl, harea, ?_⟩
    · have hbytes : bytes.length = (items.flatMap TxItem.bytes).length + 3 + 2 := List.length_append
      rw [hbytes]
      exact Nat.add_comm _ 5
    · rw [harea]
      exact parseItems_bytes hslots hvalid le_rfl
  · rintro ⟨kind, check, items⟩ r slots payload station rfl hr bytes
    have hbytes : bytes = [byte r, station.setWidth 8, check] ++ crcBytes [byte r, station.setWidth 8, check] := rfl
    have hstation : (station.setWidth 8).toNat = station.toNat := BitVec.toNat_setWidth_of_le (by omega)
    refine ⟨rfl, rfl, (assess_claim rfl).2 rfl (by omega), fun i b hi hb => ?_⟩
    have hchanged : ∀ x y z : Byte, [byte r, station.setWidth 8, check].set i b = [x, y, z] →
        bytes.set i b = [x, y, z] ++ crcBytes [byte r, station.setWidth 8, check] := fun x y z h => by
      rw [hbytes, List.set_append_left (s := [byte r, station.setWidth 8, check]) i b hi, h]
    have hcrc := crc16_set_ne (bs := [byte r, station.setWidth 8, check]) (b := b) hi (by interval_cases i <;> exact hb)
    obtain ⟨x, y, z, hxyz⟩ : ∃ x y z, [byte r, station.setWidth 8, check].set i b = [x, y, z] := by
      interval_cases i <;> exact ⟨_, _, _, rfl⟩
    rw [hchanged x y z hxyz]
    refine (assess_claim rfl).1 fun heq => hcrc ?_
    rw [hxyz]
    exact (crcBytes_injective heq).symm
  · obtain ⟨hlen, hstart, hstop, hdata⟩ := lineBits_levels b
    exact ⟨hlen, hstart, hstop, hdata, readByte_lineBits b false, readByte_lineBits b true, rfl⟩

end Sys2Proof.Machine
end

section
/-! PROOFS. What the reads answer: maps, numbers and rows in bytes, the records one by one, and a response as SDO presents it. -/

namespace Sys2Proof.Machine

variable {s : State}

/-! ## Maps and numbers in bytes (R187) -/

theorem foldl_map_getLsbD (ns : List Nat) (m : BitVec 32) {n : Nat} (hn : n < 32) :
    (ns.foldl (fun m k => m ||| (1#32 <<< k)) m).getLsbD n = true ↔ m.getLsbD n = true ∨ n ∈ ns := by
  induction ns generalizing m with
  | nil => simp
  | cons k ks ih =>
    have hbit : (1#32 <<< k).getLsbD n = decide (n = k) := by
      rw [BitVec.getLsbD_shiftLeft, BitVec.getLsbD_one]
      rcases Nat.lt_trichotomy n k with h | rfl | h
      · simp [h, Nat.ne_of_lt h]
      · simp [hn]
      · have hsub : n - k ≠ 0 := by omega
        simp [hsub, Nat.ne_of_gt h]
    rw [List.foldl_cons, ih, BitVec.getLsbD_or, hbit]
    simp [or_assoc]

/-- R187: a map of numbers below 32. -/
theorem mapOf_getLsbD (ns : List Nat) {n : Nat} (hn : n < 32) : (mapOf ns).getLsbD n = true ↔ n ∈ ns := by
  rw [mapOf, foldl_map_getLsbD ns _ hn]
  simp

theorem mapOf_stations (zs : List Station) (z : Station) :
    (mapOf (zs.map BitVec.toNat)).getLsbD z.toNat = true ↔ z ∈ zs := by
  rw [mapOf_getLsbD _ (by omega)]
  exact List.mem_map_of_injective (fun _ _ => BitVec.eq_of_toNat_eq)

theorem be4_eq (c : BitVec 32) : be4 c =
    [byte (c.toNat / 16777216), byte (c.toNat / 65536), byte (c.toNat / 256), byte c.toNat] := by
  have hpart : ∀ k, c.extractLsb' k 8 = byte (c.toNat / 2 ^ k) := fun k => by
    refine BitVec.eq_of_toNat_eq ?_
    rw [BitVec.extractLsb'_toNat, Nat.shiftRight_eq_div_pow, byte, BitVec.toNat_ofNat]
  simp only [be4, hpart]
  norm_num

theorem be4_zero : be4 0 = [0, 0, 0, 0] := by decide

/-! ## Rows (R40, R189) -/

theorem SlotEntry.row_length (self : Station) (slot : Nat) (e : SlotEntry) : (e.row self slot).length = 9 := by
  unfold SlotEntry.row
  dsimp only
  split <;> rfl

theorem slotRows_length (self : Station) (first : Nat) (es : List SlotEntry) :
    (slotRows self first es).length = 9 * es.length := by
  induction es generalizing first with
  | nil => rfl
  | cons e es ih =>
    rw [slotRows, List.length_append, SlotEntry.row_length, ih, List.length_cons]
    omega

theorem slotRows_row (self : Station) {es : List SlotEntry} {i : Nat} {e : SlotEntry} (h : es[i]? = some e) (first : Nat) :
    ((slotRows self first es).drop (9 * i)).take 9 = e.row self (first + i) := by
  induction es generalizing i first with
  | nil => cases h
  | cons x xs ih =>
    rw [slotRows]
    cases i with
    | zero =>
      cases h
      exact List.take_left' (SlotEntry.row_length _ _ _)
    | succ i =>
      have hskip : 9 * (i + 1) = (x.row self first).length + 9 * i := by
        rw [SlotEntry.row_length]
        omega
      rw [hskip, List.drop_length_add_append, ih h, Nat.add_right_comm]
      rfl

theorem flatMap_length_const {α β : Type} {f : α → List β} {k : Nat} (hf : ∀ a, (f a).length = k) (l : List α) :
    (l.flatMap f).length = k * l.length := by
  rw [List.length_flatMap, funext hf, List.map_const', List.sum_replicate_nat, Nat.mul_comm]

theorem flatMap_row {α : Type} {f : α → List Byte} {k : Nat} (hf : ∀ a, (f a).length = k) {l : List α} {i : Nat} {a : α}
    (h : l[i]? = some a) : ((l.flatMap f).drop (k * i)).take k = f a := by
  induction l generalizing i with
  | nil => cases h
  | cons x xs ih =>
    rw [List.flatMap_cons]
    cases i with
    | zero =>
      cases h
      exact List.take_left' (hf _)
    | succ i =>
      have hskip : k * (i + 1) = (f x).length + k * i := by rw [hf, Nat.mul_succ, Nat.add_comm]
      rw [hskip, List.drop_length_add_append, ih h]

theorem ownSlotBytes_eq (own : List Nat) : ownSlotBytes own = ([0, 1, 2, 3] : List Nat).map fun i =>
    match own[i]? with
    | none => 0xFF
    | some k => byte k := by
  match own with
  | [] => rfl
  | [_] => rfl
  | [_, _] => rfl
  | [_, _, _] => rfl
  | _ :: _ :: _ :: _ :: _ => rfl

/-! ## A response on SDO (R160) -/

/-- The bits of a row of bytes. -/
theorem flatMap_byteBits_getElem? (bs : List Byte) (i : Nat) :
    (bs.flatMap byteBits)[i]? = if i / 8 < bs.length then some ((byteAt bs (i / 8)).getMsbD (i % 8)) else none := by
  induction bs generalizing i with
  | nil => simp
  | cons b bs ih =>
    have hlen : (byteBits b).length = 8 := by simp [byteBits]
    rw [List.flatMap_cons]
    rcases Nat.lt_or_ge i 8 with h | h
    · have hdiv : i / 8 = 0 := by omega
      rw [List.getElem?_append_left (by omega), hdiv, Nat.mod_eq_of_lt h]
      simp [byteBits, h, byteAt]
    · have hdiv : i / 8 = (i - 8) / 8 + 1 := by omega
      have hmod : i % 8 = (i - 8) % 8 := by omega
      rw [List.getElem?_append_right (by omega), hlen, ih, hdiv, hmod]
      simp [byteAt]

theorem Response.shifted_getElem? (r : Response) {n i : Nat} (hi : i < n) : (r.shifted n)[i]? =
    some (decide (i / 8 < r.bytes.length) && (byteAt r.bytes (i / 8)).getMsbD (i % 8)) := by
  have hlen : (r.bytes.flatMap byteBits).length = 8 * r.bytes.length :=
    flatMap_length_const (f := byteBits) (fun b => by simp [byteBits]) _
  have hbits := flatMap_byteBits_getElem? r.bytes i
  rw [Response.shifted, List.getElem?_take_of_lt hi]
  rcases Nat.lt_or_ge (i / 8) r.bytes.length with h | h
  · rw [if_pos h] at hbits
    rw [List.getElem?_append_left (by omega), hbits, decide_eq_true h, Bool.true_and]
  · rw [List.getElem?_append_right (by omega), List.getElem?_replicate_of_lt (by omega), decide_eq_false (by omega),
      Bool.false_and]

theorem Response.shifted_length (r : Response) (n : Nat) : (r.shifted n).length = n := by
  simp [Response.shifted]

/-! ## The answers (R165, R173, R174, R189) -/

theorem SlotEntry.row_eq (self : Station) (slot : Nat) (e : SlotEntry) : e.row self slot = byte slot ::
    match e.view with
    | .free => [0, 0xFF, 0, 0xFF, 0, 0, 0, 0]
    | .claimed z c => [1, z.setWidth 8, 0, if z = self then byte e.failures else 0xFF] ++ be4 c
    | .held z n => [2, z.setWidth 8, byte n, if z = self then byte e.failures else 0xFF, 0, 0, 0, 0] := by
  unfold SlotEntry.row
  cases hv : e.view with
  | free => rfl
  | claimed z c => simp [SlotView.owner, absent]
  | held z n =>
    simp only [SlotView.owner, Option.some.injEq]
    rw [be4_zero]
    rfl

theorem SlotTable.peerBytes_length (t : SlotTable) (p : Peer) : (t.peerBytes p).length = 13 := rfl

theorem State.rosterBytes_length (t : SlotTable) : t.rosterBytes.length = 1 + 13 * t.roster.length := by
  rw [SlotTable.rosterBytes, List.length_append, flatMap_length_const t.peerBytes_length]
  rfl

theorem SlotTable.heldSlots_lt_iff {t : SlotTable} {z : Station} {n : Nat} (hn : n < 32) :
    (mapOf (t.heldSlots z)).getLsbD n = true ↔ n ∈ t.heldSlots z := mapOf_getLsbD _ hn

/-- The last of the flags that an outbox entry shows: withdraw-pending, absent for a CANCEL entry (R187). -/
theorem OutEntry.pendingByte (e : OutEntry) : (if e.isCue then boolCode e.withdrawPending else absent) =
    match e.kind with
    | .cue _ pending => boolCode pending
    | .cancel => 0xFF := by
  unfold OutEntry.isCue OutEntry.withdrawPending
  cases e.kind <;> rfl

theorem OutEntry.stateCode_eq (e : OutEntry) : e.stateCode =
    if e.state = .queued then 0 else if e.state = .sending then (if e.send.isNone then 1 else 2) else 3 := by
  unfold OutEntry.stateCode
  cases e.state <;> rfl

theorem verdictByte (v : Option Verdict) (none' : Byte) : (v.map Verdict.code).getD none' =
    match v with
    | none => none'
    | some w => w.code := by
  cases v <;> rfl

theorem OutEntry.due_eq {e : OutEntry} {d : SendData} (hd : e.send = some d) :
    be4 ((e.due.map Prod.fst).getD 0) ++ [((e.due.map fun d => byte d.2).getD absent)] =
    match e.kind with
    | .cue t _ => be4 (d.firstSend + BitVec.ofNat 32 t.lead) ++ [byte t.contents.dueSlot]
    | .cancel => [0, 0, 0, 0, 0xFF] := by
  unfold OutEntry.due
  rw [hd]
  cases e.kind with
  | cue t pending => rfl
  | cancel =>
    refine (congrArg (· ++ [absent]) be4_zero).trans ?_
    rfl

theorem OutEntry.due_unsent {e : OutEntry} (h : e.send = none) : e.due = none := by
  unfold OutEntry.due
  rw [h]
  cases e.kind <;> rfl

/-- Settles O5: the answers one by one, each by the layout of its bytes. -/
theorem readsReturnAndTake : Obligations.ReadsReturnAndTake := by
  refine ⟨?_, ?_, ?_, ?_, ?_, ?_, ?_, ?_, ?_, ?_, ?_⟩
  · intro rest tail s h answers
    refine ⟨?_, rfl, ?_, fun himage => ⟨?_, ?_, ?_, State.rosterBytes_length s.st, fun i more hrest => ?_⟩⟩
    · simp only [exec, execGetStatus]
      rw [State.command_taken h (by omega)]
      rfl
    · have hown : (ownSlotBytes (s.st.heldSlots s.self)).length = 4 := by
        rw [ownSlotBytes_eq]
        rfl
      simp only [State.statusBytes, List.length_append, hown]
      rfl
    · simp only [exec, execReadSlots]
      rw [State.gated_taken h himage (by omega)]
      rfl
    · rw [State.slotBytes, List.length_append, slotRows_length]
      rfl
    · simp only [exec, execReadRoster]
      rw [State.gated_taken h himage (by omega)]
      rfl
    · subst hrest
      have hlen : 2 ≤ (i :: more).length + 1 := by simp
      refine ⟨fun hi => ?_, fun hi => ?_, fun hi => ?_, fun hi => ?_, fun hi => ⟨?_, ?_⟩, fun hi => ?_⟩
      · simp only [exec, execReadQueue]
        rw [State.gated_taken h himage hlen]
        exact congrArg Host.Outcome.next (if_neg (Nat.not_lt.2 hi))
      · simp only [exec, execReadQueue]
        rw [State.gated_taken h himage hlen]
        exact congrArg Host.Outcome.next (if_pos hi)
      · simp only [exec, execReadOutbox]
        rw [State.gated_taken h himage hlen]
        exact congrArg Host.Outcome.next (if_neg (Nat.not_lt.2 hi))
      · simp only [exec, execReadOutbox]
        rw [State.gated_taken h himage hlen]
        exact congrArg Host.Outcome.next (if_pos hi)
      · simp only [exec, execReadChannel]
        rw [State.gated_taken h himage hlen]
        exact congrArg Host.Outcome.next (dif_pos hi)
      · unfold ChannelGenerators.bytes
        cases s.cg.channels.get ⟨i.toNat, hi⟩ <;> rfl
      · simp only [exec, execReadChannel]
        rw [State.gated_taken h himage hlen]
        exact congrArg Host.Outcome.next (dif_neg (Nat.not_lt.2 hi))
  · exact ⟨rfl, rfl, rfl, rfl, rfl, rfl, rfl, fun _ _ _ _ => rfl, rfl, rfl, rfl, rfl, rfl, rfl, rfl, rfl, rfl, rfl, rfl⟩
  · intro r n
    exact ⟨rfl, r.shifted_length n, fun i hi => r.shifted_getElem? hi⟩
  · intro s own
    have hindex : (s.ct.slotIndex.map byte).getD absent = match s.ct.slotIndex with
        | none => 0xFF
        | some k => byte k := by
      cases s.ct.slotIndex <;> rfl
    refine ⟨?_, rfl, fun i e he => ?_, rfl, fun i p hp => ?_⟩
    · have hdrop : s.statusBytes.drop 6 = be4 s.ct.cycle ++ [(s.ct.slotIndex.map byte).getD absent] ++ ownSlotBytes own ++
          [byte s.cq.records.length, byte s.ob.entries.length, byte s.fb.staging.length, byte s.ev.records.length,
            byte s.ev.lost] ++ be2 s.ob.counter.toNat := rfl
      rw [hindex, ownSlotBytes_eq] at hdrop
      exact hdrop
    · have hskip : 3 + 9 * i = [byte s.heldCount, byte s.claimedCount, byte s.st.entries.length].length + 9 * i := rfl
      rw [State.slotBytes, hskip, List.drop_length_add_append, slotRows_row s.self he, Nat.add_comm 1 i]
      exact SlotEntry.row_eq s.self (i + 1) e
    · have hskip : 1 + 13 * i = [byte s.st.roster.length].length + 13 * i := rfl
      refine ⟨mapOf (s.st.heldSlots p.station), fun n hn => mapOf_getLsbD _ hn, ?_⟩
      rw [SlotTable.rosterBytes, hskip, List.drop_length_add_append, flatMap_row s.st.peerBytes_length hp]
      rfl
  · intro v w n m c
    exact ⟨rfl, be4_eq c, rfl, rfl, rfl, rfl⟩
  · intro r
    rfl
  · intro e
    refine ⟨mapOf (((e.send.map SendData.expected).getD []).map BitVec.toNat), mapOf (e.unanswered.map BitVec.toNat),
      e.contentBytes, fun z => ⟨?_, mapOf_stations _ z⟩, fun hk => ?_, fun t pending hk => ?_, ?_⟩
    · rw [mapOf_stations]
      cases e.send <;> simp
    · obtain ⟨serial, kind, state, source, send, self⟩ := e
      cases hk
      rfl
    · obtain ⟨serial, kind, state, source, send, self⟩ := e
      cases hk
      rfl
    · intro front self
      refine ⟨fun hs => ?_, fun d hs => ?_⟩
      · simp only [OutEntry.bytes, OutEntry.pendingByte, OutEntry.stateCode_eq, OutEntry.attempts, verdictByte,
          OutEntry.due_unsent hs, hs, Option.map_none, Option.getD_none, Option.isNone_none, if_true, List.map_nil]
        rw [List.flatMap_nil, List.append_nil, show mapOf [] = 0 from rfl, be4_zero]
        rfl
      · have hdue : ∀ x : List Byte, x ++ be4 ((e.due.map Prod.fst).getD 0) ++ [((e.due.map fun d => byte d.2).getD absent)] =
            x ++ match e.kind with
              | .cue t _ => be4 (d.firstSend + BitVec.ofNat 32 t.lead) ++ [byte t.contents.dueSlot]
              | .cancel => [0, 0, 0, 0, 0xFF] := fun x => by
          rw [List.append_assoc, OutEntry.due_eq hs]
        simp only [OutEntry.bytes, OutEntry.pendingByte, OutEntry.stateCode_eq, OutEntry.attempts, verdictByte, hdue, hs,
          Option.map_some, Option.getD_some, Option.isNone_some, Bool.false_eq_true, if_false]
        rfl
  · intro g c st last
    refine ⟨fun hc => ?_, fun v hc => ?_, fun v a b n k hc => ?_, fun v a b m phase left hc => ?_⟩
    · simp only [ChannelGenerators.bytes, hc]
      rfl
    · simp only [ChannelGenerators.bytes, hc]
      rfl
    · simp only [ChannelGenerators.bytes, hc]
      rfl
    · simp only [ChannelGenerators.bytes, hc]
      cases phase <;> rfl
  · intro before after reason loss fault z slot held claimed skipped c d id group level position channel action retry
      repeated cause input edge serial drop history zeros
    refine ⟨rfl, rfl, rfl, rfl, rfl, rfl, rfl, rfl, rfl, rfl, rfl, rfl, rfl, rfl, ?_, ?_, rfl⟩
    · cases repeated <;> rfl
    · cases history <;> rfl
  · intro c a b d e
    refine ⟨mapOf (c.missing.map BitVec.toNat), mapOf_stations _, fun hcounts => ?_⟩
    have hfour : ((c.counts.map byte) ++ [0, 0, 0, 0]).take 4 = [byte a, byte b, byte d, byte e] := by
      rcases hcounts with hc | ⟨hc, rfl⟩
      · rw [hc]
        rfl
      · rw [hc]
        rfl
    simp only [EventRecord.bytes, EventRecord.fields, hfour, verdictByte]
    rfl
  · intro rest tail s h himage
    refine ⟨fun n more hrest hn1 hn4 => ?_, fun n more hrest hn => ?_, ?_⟩
    · subst hrest
      refine ⟨(s.ev.take n.toNat).atn, ?_, ?_⟩
      · rw [← List.length_drop]
        exact EventQueue.wantsAttention_iff _
      · simp only [exec, execReadEvents]
        rw [State.gated_taken h himage (by simp), if_pos ⟨hn1, hn4⟩, State.takeEvents, List.length_take]
        rfl
    · subst hrest
      simp only [exec, execReadEvents]
      rw [State.gated_taken h himage (by simp), if_neg (by simp only [byteAt, List.getD_cons_zero]; omega)]
      rfl
    · simp only [exec, execReadCounters]
      rw [State.gated_taken h himage (by omega)]
      rfl

end Sys2Proof.Machine
end

section
/-! PROOFS. One bit time: what LC sends, compares, reads and times in it, and the places of the bits it sends. -/

namespace Sys2Proof.Machine

variable {s : State} {read : Bool}

/-! ## LC in one bit time (R123 to R125) -/

/-- R123, R125: the bit that is compared and the bit that begins. -/
theorem State.lineBit_at (hline : s.sc.state.onLine = true) {p : Nat} (hp : s.ct.position = some p) :
    (s.lineBit read).heldMismatch = ((s.hear read).sendBit (s.sentAt p) (s.inField p) read).heldMismatch ∧
    (s.lineBit read).crc = ((s.hear read).sendBit (s.sentAt p) (s.inField p) read).crc ∧
    (s.lineBit read).drive = (if (s.sentAt (p + 1)).any SentBit.dominant then .driving else .released) ∧
    (s.lineBit read).arbitration =
      if !s.inField (p + 1) then .outside
      else if s.lc.arbitration = .lost then .lost
      else if (s.sentAt (p + 1)).isSome then .inside else .outside := by
  simp only [State.lineBit, hline, hp, LineController.sample_eq, LineController.startBit, LineController.sendBit_frame,
    State.hear_frame, if_true, and_self]

theorem State.lineBit_nowhere (hline : s.sc.state.onLine = true) (hp : s.ct.position = none) :
    (s.lineBit read).drive = s.lc.drive ∧ (s.lineBit read).arbitration = s.lc.arbitration ∧
    (s.lineBit read).heldMismatch = s.lc.heldMismatch := by
  simp only [State.lineBit, hline, hp, LineController.sample_eq, State.hear_frame, if_true, and_self]

/-- R127, R132: while this station sends and no record stands, only the bits it sends enter the accumulator. -/
theorem State.hear_crc_sending (hrecv : s.lc.reception = none) (hfb : s.fb.transmission ≠ none) :
    (s.hear read).crc = s.lc.crc := by
  rw [(State.hear_frame s read).2.2.2.2.2.2.2.2]
  rcases s.assemble_cases read with ⟨-, hcrc⟩ | ⟨-, hr | hstart⟩
  · exact hcrc
  · exact absurd hrecv hr
  · obtain ⟨k, hk⟩ := Option.ne_none_iff_exists'.1 hstart
    exact absurd (State.frameStart_spec hk).2.2.1 hfb

/-! ## Reading a level (R124, R132, R133) -/

/-- R124: between two bytes: a falling edge begins one. -/
theorem LineController.readLevel_idle {l : LineController} (h : l.reading = none) (read : Bool) :
    (l.readLevel read).1.reading = (if read = true ∧ l.dominantRun = 0 then some [true] else none) ∧
    (l.readLevel read).2 = none ∧ l.byteStart read = decide (read = true ∧ l.dominantRun = 0) := by
  have hstart : l.byteStart read = decide (read = true ∧ l.dominantRun = 0) := by
    simp only [byteStart, h, Option.isNone_none, Bool.and_true]
    rw [Bool.eq_iff_iff]
    simp
  refine ⟨?_, by simp only [readLevel, h], hstart⟩
  simp only [readLevel, h, hstart, decide_eq_true_eq]
  split
  · next hc => rw [hc.1]
  · exact h

/-- R124: within a byte: the level joins those before it. -/
theorem LineController.readLevel_within {l : LineController} {levels : List Bool} (h : l.reading = some levels)
    (hlen : levels.length < 9) (read : Bool) :
    l.readLevel read = ({ l with reading := some (levels ++ [read]) }, none) ∧ l.byteStart read = false := by
  refine ⟨by simp only [readLevel, h, if_pos hlen], ?_⟩
  simp only [byteStart, h, Option.isNone_some, Bool.and_false, Bool.false_and]

/-- R124: the tenth level delivers a byte. -/
theorem LineController.readLevel_last {l : LineController} {levels : List Bool} (h : l.reading = some levels)
    (hlen : 9 ≤ levels.length) (read : Bool) :
    l.readLevel read = ({ l with reading := none }, readByte (levels ++ [read])) ∧ l.byteStart read = false := by
  refine ⟨by simp only [readLevel, h, if_neg (Nat.not_lt.2 hlen)], ?_⟩
  simp only [byteStart, h, Option.isNone_some, Bool.and_false, Bool.false_and]

theorem readByte_ninth (b : Byte) (read : Bool) :
    readByte ((lineBits b).take 9 ++ [read]) = some { value := b, framing := read } := readByte_lineBits b read

/-- R133: a byte delivered into a record that is still open. -/
theorem Reception.take_open {r : Reception} {payload : Nat} (hframing : r.framing = false)
    (hlong : overlong r.slot payload r.bytes = false) (hopen : r.expected ≠ some r.bytes.length) (b : Byte) (read : Bool) :
    (read = false → r.take payload { value := b, framing := read } =
      { r with bytes := r.bytes ++ [b], expected := expectedBytes r.slot (r.bytes ++ [b]) }) ∧
    (read = true → r.take payload { value := b, framing := read } = { r with framing := true }) := by
  rcases r.take_cases payload { value := b, framing := read } with ⟨hended, -⟩ | ⟨-, htake⟩
  · rcases hended with h | h | h
    · simp [hframing] at h
    · simp [hlong] at h
    · exact absurd h hopen
  · rw [htake]
    refine ⟨?_, ?_⟩
    · rintro rfl
      rw [if_neg Bool.false_ne_true, Reception.ofBytes, ← hframing]
    · rintro rfl
      rfl

/-- R132: what one level gives the reception record. -/
theorem State.hear_reception (s : State) (read : Bool) :
    (∀ levels, s.lc.reading = some levels → levels.length < 9 → (s.hear read).reception = s.lc.reception) ∧
    (∀ k, s.frameStart = some k → s.lc.reading = none → s.lc.dominantRun = 0 → read = true →
      (s.hear read).reception = some (.ofBytes k [])) ∧
    (∀ (b : Byte) (r : Reception), s.lc.reading = some ((lineBits b).take 9) → s.lc.reception = some r →
      (s.hear read).reception = some (r.take s.payload { value := b, framing := read })) := by
  rw [(State.hear_frame s read).2.2.2.2.2.2.2.1]
  unfold State.assemble
  refine ⟨fun levels hl hlen => ?_, fun k hk hl hrun hread => ?_, fun b r hl hr => ?_⟩
  · obtain ⟨hlevel, hstart⟩ := LineController.readLevel_within hl hlen read
    simp only [hlevel, hstart, Bool.false_eq_true, if_false]
  · obtain ⟨-, hlevel, hstart⟩ := LineController.readLevel_idle hl read
    dsimp only
    rw [hlevel, hstart, decide_eq_true ⟨hread, hrun⟩, hk]
    rfl
  · obtain ⟨hlevel, -⟩ := LineController.readLevel_last hl (Nat.le_of_eq rfl) read
    rw [hlevel, readByte_ninth]
    exact (LineController.takeByte_reception { s.lc with reading := none } s.payload _).2 r hr |>.1

/-- R132: what one level gives the bytes overheard while this station sends. -/
theorem State.hear_overheard (s : State) (read : Bool) :
    (s.fb.transmission = none → (s.hear read).overheard = s.lc.overheard) ∧
    (∀ levels, s.lc.reading = some levels → levels.length < 9 → (s.hear read).overheard = s.lc.overheard) ∧
    (∀ k, s.fb.transmission ≠ none → s.ct.slotIndex = some k → s.lc.reading = none → s.lc.dominantRun = 0 →
      read = true → (s.hear read).overheard = some (s.lc.overheard.getD (.ofBytes k []))) ∧
    (∀ (b : Byte) (r : Reception), s.fb.transmission ≠ none → s.ct.slotIndex ≠ none →
      s.lc.reading = some ((lineBits b).take 9) → s.lc.overheard = some r →
      (s.hear read).overheard = some (r.take s.payload { value := b, framing := read })) := by
  obtain ⟨-, hdeaf, hhears⟩ := s.hear_eq read
  refine ⟨fun hfb => hdeaf fun f slot hf => by simp [hfb] at hf, fun levels hl hlen => ?_, fun k hfb hk hl hrun hread => ?_,
    fun b r hfb hslot hl hr => ?_⟩
  · by_cases hsend : ∃ f slot, s.fb.transmission = some f ∧ s.ct.slotIndex = some slot
    · obtain ⟨f, slot, hf, hslot⟩ := hsend
      obtain ⟨hlevel, hstart⟩ := LineController.readLevel_within hl hlen read
      rw [hhears f slot hf hslot, hlevel, hstart]
      rfl
    · exact hdeaf fun f slot hf hslot => hsend ⟨f, slot, hf, hslot⟩
  · obtain ⟨f, hf⟩ := Option.ne_none_iff_exists'.1 hfb
    obtain ⟨-, hlevel, hstart⟩ := LineController.readLevel_idle hl read
    rw [hhears f k hf hk, hlevel, hstart, hrun, hread]
    rfl
  · obtain ⟨f, hf⟩ := Option.ne_none_iff_exists'.1 hfb
    obtain ⟨slot, hslot⟩ := Option.ne_none_iff_exists'.1 hslot
    obtain ⟨hlevel, -⟩ := LineController.readLevel_last hl (Nat.le_of_eq rfl) read
    rw [hhears f slot hf hslot, hlevel, readByte_ninth]
    simp only [LineController.overhear, hr, Option.map_some]

/-! ## The bits that are sent (R5, R6, R124, R126) -/

theorem isDataBit_iff (q : Nat) : isDataBit q = true ↔ 1 ≤ q % 10 ∧ q % 10 ≤ 8 := decide_eq_true_iff

/-- R124: a byte's start bit is dominant, a data bit of 0 is, and the stop bit is not. -/
theorem levelAt_eq {bytes : List Byte} {q : Nat} (hq : q < 10 * bytes.length) : levelAt bytes q =
    some (decide (q % 10 = 0) || (isDataBit q && !(byteAt bytes (q / 10)).getMsbD (q % 10 - 1))) := by
  have hdiv : q / 10 < bytes.length := by omega
  have hbyte : bytes[q / 10]? = some (byteAt bytes (q / 10)) := by
    rw [List.getElem?_eq_getElem hdiv, byteAt, List.getD_eq_getElem _ _ hdiv]
  obtain ⟨-, hstart, hstop, hdata⟩ := lineBits_levels (byteAt bytes (q / 10))
  rw [levelAt, hbyte, Option.bind_some]
  have hmod : q % 10 < 10 := Nat.mod_lt _ (by omega)
  unfold isDataBit
  rcases Nat.eq_zero_or_pos (q % 10) with h0 | hpos
  · rw [h0, hstart]
    rfl
  · rcases Nat.lt_or_ge (q % 10) 9 with h9 | h9
    · have hsucc : q % 10 = (q % 10 - 1) + 1 := by omega
      rw [decide_eq_false (by omega : ¬q % 10 = 0), decide_eq_true (by omega : 1 ≤ q % 10 ∧ q % 10 ≤ 8), hsucc,
        hdata _ (by omega)]
      rfl
    · have hnine : q % 10 = 9 := by omega
      rw [hnine, hstop]
      rfl

theorem levelAt_none {bytes : List Byte} {q : Nat} (hq : 10 * bytes.length ≤ q) : levelAt bytes q = none := by
  have hdiv : bytes.length ≤ q / 10 := by omega
  rw [levelAt, List.getElem?_eq_none hdiv]
  rfl

/-- R6: the data bits of the four bytes of a number field. -/
theorem be4_getMsbD (c : BitVec 32) {j i : Nat} (hj : j < 4) (hi : i < 8) :
    (byteAt (be4 c) j).getMsbD i = c.getMsbD (8 * j + i) := by
  have hpart : ∀ k, k ≤ 24 → (c.extractLsb' k 8).getMsbD i = c.getMsbD (24 - k + i) := fun k hk => by
    have h1 : i < 8 := hi
    have h2 : 24 - k + i < 32 := by omega
    have h3 : 32 - 1 - (24 - k + i) = k + (8 - 1 - i) := by omega
    have h4 : 8 - 1 - i < 8 := by omega
    simp [BitVec.getMsbD, h1, h2, h3, h4]
  interval_cases j
  · exact hpart 24 le_rfl
  · exact hpart 16 (by omega)
  · exact hpart 8 (by omega)
  · exact hpart 0 (by omega)

/-- Settles O2: the bit time field by field; then the bits of a frame and of an opening at their places. -/
theorem emptyQueuePassesBitTime : Obligations.EmptyQueuePassesBitTime := by
  refine ⟨?_, ?_, ?_⟩
  · intro s hpending dominant
    refine ⟨s.lineBit dominant, ?_, fun hoff => State.lineBit_off hoff _, fun hfault => ?_, fun hline => ?_⟩
    · have hstep : step s = .next s.tick := by rw [step, hpending]
      exact hstep
    · rw [State.lineBit_lineFault hfault, LineController.sample_eq]
    · obtain ⟨hsending, hdom, hrec, hreading, hreception, hoverheard⟩ := State.lineBit_onLine hline dominant
      obtain ⟨hwithin, hbegins, hjoins⟩ := s.hear_reception dominant
      obtain ⟨hsilent, hkeeps, hfirst, hnext⟩ := s.hear_overheard dominant
      rw [hreading, hreception, hoverheard]
      refine ⟨hsending, hdom, hrec, fun hp => State.lineBit_nowhere hline hp, fun p hp => ?_, fun hl => ?_,
        fun levels hl hlen => ?_, fun levels hl hlen => ?_, hbegins, hsilent, hkeeps, hfirst,
        fun b r hfb hslot hl hr hframing hlong hopen => ?_, fun b r hl hr hframing hlong hopen => ?_⟩
      · obtain ⟨hmismatch, hcrc, hdrive, hstanding⟩ := State.lineBit_at (read := dominant) hline hp
        rw [hmismatch, hdrive, hstanding]
        refine ⟨fun hb => ?_, fun b hb => ⟨?_, fun hrecv hfb => ?_⟩, fun hb => ?_, fun b hb => ?_, fun hfield => ?_,
          fun hfield => ?_⟩
        · rw [hb]
          exact (s.hear_frame dominant).2.2.2.1
        · rw [hb, LineController.sendBit_heldMismatch, (s.hear_frame dominant).2.2.2.1]
          simp [and_assoc]
        · have hsent : ((s.hear dominant).sendBit (some b) (s.inField p) dominant).crc = match b.covered with
              | none => (s.hear dominant).crc
              | some v => (s.hear dominant).crc.map fun acc => crcBit acc v := by
            cases hc : b.covered <;> simp [LineController.sendBit, hc]
          rw [State.hear_crc_sending hrecv hfb] at hsent
          rw [hcrc, hb]
          exact hsent
        · rw [hb]
          rfl
        · rw [hb]
          rfl
        · rw [hfield]
          rfl
        · rw [hfield]
          cases s.sentAt (p + 1) <;> simp
      · exact (LineController.readLevel_idle hl dominant).1
      · rw [(LineController.readLevel_within hl hlen dominant).1]
        exact ⟨rfl, hwithin levels hl hlen⟩
      · rw [(LineController.readLevel_last hl hlen dominant).1]
      · obtain ⟨hgood, hbad⟩ := Reception.take_open hframing hlong hopen b dominant
        rw [hnext b r hfb hslot hl hr]
        exact ⟨fun h => congrArg some (hgood h), fun h => congrArg some (hbad h)⟩
      · obtain ⟨hgood, hbad⟩ := Reception.take_open hframing hlong hopen b dominant
        rw [hjoins b r hl hr]
        exact ⟨fun h => congrArg some (hgood h), fun h => congrArg some (hbad h)⟩
  · intro s f k q hf hk hsending bytes data value place
    have hplace : place = s.slotStart k + q := rfl
    have hsent : s.sentAt place = frameBit bytes q := by
      have hread : s.sentAt place = s.fb.transmission.bind fun f => s.ct.slotIndex.bind fun k =>
          if place < s.slotStart k then none else frameBit (f.bytes s.self) (place - s.slotStart k) := by
        rcases hsending with h | h <;> simp only [State.sentAt, h]
      rw [hread, hf, hk, hplace, Option.bind_some, Option.bind_some, if_neg (by omega), Nat.add_sub_cancel_left]
    refine ⟨fun hphase => ?_, fun hq => ?_, fun hq => ?_⟩
    · simp only [State.inField, hphase, hk, Option.map_some, Option.getD_some, decide_eq_true_eq, hplace]
      split <;> omega
    · rw [hsent, frameBit, levelAt_none hq]
      rfl
    · rw [hsent, frameBit, levelAt_eq hq]
      refine ⟨_, rfl, ?_, isDataBit_iff q, ?_⟩
      · simp [isDataBit_iff, data, value]
      · have hcovered : (isDataBit q && decide (q / 10 + 2 < bytes.length)) = true ↔ data ∧ q / 10 + 2 < bytes.length := by
          rw [Bool.and_eq_true, isDataBit_iff, decide_eq_true_iff]
        dsimp only
        split
        · next hc =>
          obtain ⟨hdata, hlen⟩ := hcovered.1 hc
          rw [if_pos ⟨hdata, hlen⟩, decide_eq_false (by omega), (isDataBit_iff q).2 hdata]
          simp [value]
        · next hc => rw [if_neg (mt hcovered.2 hc)]
  · intro s o proposal im q hsending ho hproposal him data
    have hsent : ∀ p, s.sentAt p = o.bit proposal im.shapeByte p := fun p => by
      simp only [State.sentAt, hsending, ho, hproposal, him, Option.bind_some, Option.getD_some, Option.map_some]
    refine ⟨fun hphase => ?_, fun hstage => ?_, fun hstage hq => ?_, fun hstage hq => ?_, fun hstage hq => ?_⟩
    · simp only [State.inField, hphase, decide_eq_true_eq]
    · rw [hsent, Opening.bit, hstage]
    · rw [hsent, Opening.bit, hstage]
      exact if_pos hq
    · have hlen : q < 10 * (numberField proposal).length := hq
      rw [hsent, Opening.bit, hstage]
      dsimp only
      rw [if_neg (by omega), Nat.add_sub_cancel_left, levelAt_eq hlen]
      refine ⟨_, rfl, rfl, isDataBit_iff q, ?_⟩
      by_cases hdata : 1 ≤ q % 10 ∧ q % 10 ≤ 8
      · have hbit : (byteAt (numberField proposal) (q / 10)).getMsbD (q % 10 - 1) =
            !proposal.getMsbD (8 * (q / 10) + (q % 10 - 1)) := by
          rw [numberField, be4_getMsbD _ (by omega) (by omega), BitVec.getMsbD_not,
            decide_eq_true (by omega), Bool.true_and]
        have hnz : ¬q % 10 = 0 := by omega
        rw [hbit, (isDataBit_iff q).2 hdata]
        simp [data, hnz, hdata, and_comm]
      · have hfalse : isDataBit q = false := by rw [← Bool.not_eq_true, isDataBit_iff]; exact hdata
        have hnot : ¬data := hdata
        simp [hfalse, hnot]
    · have hlen : q < 10 * [im.shapeByte].length := hq
      have hfirst : byteAt [im.shapeByte] (q / 10) = im.shapeByte := by
        rw [Nat.div_eq_of_lt hq]
        rfl
      rw [hsent, Opening.bit, hstage]
      dsimp only
      rw [if_neg (by omega), Nat.add_sub_cancel_left, levelAt_eq hlen, hfirst, Nat.mod_eq_of_lt hq]
      refine ⟨_, rfl, rfl, isDataBit_iff q, ?_⟩
      simp [isDataBit_iff, data]

end Sys2Proof.Machine
end

section
/-! PROOFS. Due positions: how the distance of a due cycle and the age of a first send change as the cycle number advances, where a record enters the queue, and what the operations leave of the records and of each entry's template, first send and deadline. -/

namespace Sys2Proof.Machine

/-! ## Cycle numbers (R7, R42) -/

/-- R42: a cue with a lead in range is due that many cycles ahead. -/
theorem distance_ahead (now : Cycle) {lead : Nat} (h : lead ≤ 1023) : distance now (ahead now lead) = lead := by
  unfold distance ahead
  bv_omega

/-- R60: a record that the new cycle number does not pass comes nearer by as much as the number advances. -/
theorem distance_advance {now due slip : Cycle} (h0 : distance now due ≠ 0) (h : distance now due ≤ 1023)
    (hslip : slip.toNat < 2147483648) (hkept : earlier due (now + 1 + slip) = false) :
    distance (now + 1 + slip) due + (slip.toNat + 1) = distance now due := by
  unfold distance at *
  unfold earlier later at hkept
  have hkept := of_decide_eq_false hkept
  bv_omega

/-- R10: the next cycle number passes no record that is not due in this cycle. -/
theorem earlier_next {now due : Cycle} (h0 : distance now due ≠ 0) (h : distance now due ≤ 1023) :
    earlier due (now + 1) = false := by
  unfold distance at *
  refine decide_eq_false ?_
  bv_omega

/-- R101: an entry whose deadline the new cycle number does not reach was first sent fewer than 16 cycles before it. -/
theorem age_advance {now first slip : Cycle} {m : Nat} (hm : m ≤ 16) (hage : (now - first).toNat < 16)
    (hold : later (ahead first m) now = true) (hslip : slip.toNat < 2147483648)
    (hnew : later (ahead first m) (now + 1 + slip) = true) : (now + 1 + slip - first).toNat < 16 := by
  unfold later ahead at hold hnew
  have hold := of_decide_eq_true hold
  have hnew := of_decide_eq_true hnew
  bv_omega

/-- R92: the lead that a retry carries. -/
theorem retry_lead {now first : Cycle} {m lead : Nat} (hm : m ≤ 16) (hle : m ≤ lead) (hlead : lead ≤ 1023)
    (hage : (now - first).toNat < 16) (hold : later (ahead first m) now = true) :
    1 ≤ (ahead first lead - now).toNat ∧ (ahead first lead - now).toNat ≤ 1023 := by
  unfold later ahead at hold
  have hold := of_decide_eq_true hold
  unfold ahead
  bv_omega

/-- R93: the deadline of a first send is still to come. -/
theorem later_ahead (now : Cycle) {m : Nat} (h1 : 1 ≤ m) (h : m ≤ 1023) : later (ahead now m) now = true := by
  refine decide_eq_true ?_
  unfold ahead
  bv_omega

/-! ## The queue (R42, R51) -/

/-- R42: the record is not due later than the other. -/
def CueRecord.NotAfter (now : Cycle) (r q : CueRecord) : Prop :=
  distance now r.dueCycle < distance now q.dueCycle ∨
    (distance now r.dueCycle = distance now q.dueCycle ∧ r.dueSlot ≤ q.dueSlot)

/-- R42: a record enters in order of due position. -/
theorem insertRecord_ordered {now : Cycle} {l : List CueRecord} (h : l.Pairwise (CueRecord.NotAfter now))
    (r : CueRecord) : (insertRecord now r l).Pairwise (CueRecord.NotAfter now) := by
  obtain ⟨before, after, rfl, heq, hbefore, hafter⟩ := insertRecord_split now r l
  obtain ⟨hb, ha, hba⟩ := List.pairwise_append.1 h
  have hrx : ∀ x ∈ after, r.NotAfter now x := by
    cases after with
    | nil => exact nofun
    | cons y ys =>
      have hry := of_decide_eq_true (hafter y rfl)
      refine List.forall_mem_cons.2 ⟨?_, fun x hx => ?_⟩
      · unfold CueRecord.NotAfter
        omega
      · have hyx := (List.pairwise_cons.1 ha).1 x hx
        unfold CueRecord.NotAfter at hyx ⊢
        omega
  rw [heq]
  refine List.pairwise_append.2 ⟨hb, List.pairwise_cons.2 ⟨hrx, ha⟩, fun x hx => List.forall_mem_cons.2 ⟨?_, hba x hx⟩⟩
  have hnot := of_decide_eq_false (hbefore x hx)
  unfold CueRecord.NotAfter
  omega

theorem CueQueue.remove_sublist (q : CueQueue) (p : CueRecord → Bool) (reason : RetireReason) :
    (q.remove p reason).records.Sublist q.records := List.filter_sublist

/-- R46 to R51: of the records some may go, and a record of the item's due position may come. -/
theorem CueQueue.takeCue_records (q : CueQueue) (now : Cycle) (item : CueItem) :
    (q.takeCue now item).1.records.Sublist q.records ∨
    ∃ l r, l.Sublist q.records ∧ (q.takeCue now item).1.records = insertRecord now r l ∧
      r.dueCycle = ahead now item.lead ∧ r.dueSlot = item.contents.dueSlot := by
  have henter : ∀ (p : CueQueue) channel, p.records = q.records →
      (p.enterCue now item channel).1.records.Sublist q.records ∨
      ∃ l r, l.Sublist q.records ∧ (p.enterCue now item channel).1.records = insertRecord now r l ∧
        r.dueCycle = ahead now item.lead ∧ r.dueSlot = item.contents.dueSlot := by
    intro p channel hp
    unfold CueQueue.enterCue
    extract_lets p1
    have hp1 : p1.records.Sublist q.records := by
      simp only [p1]
      split
      · exact hp ▸ p.remove_sublist ..
      · rw [hp]
    split
    · exact .inl hp1
    · exact .inr ⟨p1.records, _, hp1, rfl, rfl, rfl⟩
  unfold CueQueue.takeCue
  split
  · exact .inl (List.Sublist.refl _)
  · split
    · exact .inl (List.Sublist.refl _)
    · split
      · exact henter q _ rfl
      · split
        · exact .inl (List.Sublist.refl _)
        · exact henter (q.forget item.id) _ rfl

/-- R52, R53, R58: a cancel takes records away. -/
theorem CueQueue.takeCancel_sublist (q : CueQueue) (id : CueId) :
    (q.takeCancel id).1.records.Sublist q.records ∧ (q.takePendingCancel id).1.records.Sublist q.records := by
  unfold CueQueue.takeCancel CueQueue.takePendingCancel
  constructor
  · split
    · exact q.remove_sublist ..
    · split <;> exact List.Sublist.refl _
  · split
    · exact q.remove_sublist ..
    · exact List.Sublist.refl _

/-! ## The entries (R86, R93, R101) -/

/-- How long after its first send the deadline of an entry is (R93). -/
def OutEntry.patience (window : Nat) (e : OutEntry) : Nat :=
  match e.template with
  | some t => min window t.lead
  | none => window

/-- The template of an entry in range, and its first send as recent as its deadline admits. -/
structure OutEntry.Timely (slots window : Nat) (now : Cycle) (e : OutEntry) : Prop where
  template : ∀ t, e.template = some t → t.InRange slots
  sent : ∀ d, e.send = some d → (now - d.firstSend).toNat < 16 ∧ d.deadline = ahead d.firstSend (e.patience window) ∧
    later d.deadline now = true

/-- What an entry's due position and deadline rest on. -/
def OutEntry.timing (e : OutEntry) : Option CueTemplate × Option (Cycle × Cycle) :=
  (e.template, e.send.map fun d => (d.firstSend, d.deadline))

theorem OutEntry.timing_eq_iff {e x : OutEntry} : x.timing = e.timing ↔
    x.template = e.template ∧
      x.send.map (fun d => (d.firstSend, d.deadline)) = e.send.map fun d => (d.firstSend, d.deadline) :=
  Prod.mk_inj

/-- Of two entries with one timing, the one is timely and has been sent when the other has. -/
theorem OutEntry.Timely.of_timing {slots window : Nat} {now : Cycle} {e x : OutEntry} (h : e.Timely slots window now)
    (hx : x.timing = e.timing) : x.Timely slots window now := by
  obtain ⟨ht, hsend⟩ := OutEntry.timing_eq_iff.1 hx
  refine ⟨fun t hxt => h.template t (ht ▸ hxt), fun d hd => ?_⟩
  rw [hd] at hsend
  obtain ⟨d', hd', heq⟩ := Option.map_eq_some_iff.1 hsend.symm
  obtain ⟨hfirst, hdeadline⟩ := Prod.mk.inj heq
  have hp : x.patience window = e.patience window := by
    unfold OutEntry.patience
    rw [ht]
  rw [← hfirst, ← hdeadline, hp]
  exact h.sent d' hd'

theorem OutEntry.send_none_of_timing {e x : OutEntry} (h : e.send = none) (hx : x.timing = e.timing) :
    x.send = none := by
  have hsend := (OutEntry.timing_eq_iff.1 hx).2
  rw [h] at hsend
  exact Option.map_eq_none_iff.1 hsend

theorem OutEntry.timing_depart (z : Station) (e : OutEntry) : (e.depart z).1.timing = e.timing := by
  rw [OutEntry.depart_eq]
  split
  · cases hd : e.send <;> simp [OutEntry.timing, OutEntry.template, hd, SendData.depart]
  · rfl

theorem timing_onEntry {kind : CueKind} {n : Serial} {f : OutEntry → OutEntry × Option Outcome}
    (hf : ∀ e, (f e).1.timing = e.timing) (e : OutEntry) : (onEntry kind n f e).1.timing = e.timing := by
  unfold onEntry
  split
  · exact hf e
  · rfl

/-- The entries after an operation are among those before it, each with its template, first send and deadline. -/
structure State.Dwindles (s t : State) : Prop where
  entries : ∀ x ∈ t.ob.entries, ∃ e ∈ s.ob.entries, x.timing = e.timing

namespace State.Dwindles

variable {s t u : State} {slot : Nat} {z : Station}

theorem same (h : t.ob = s.ob) : s.Dwindles t := ⟨fun x hx => ⟨x, h ▸ hx, rfl⟩⟩

theorem trans (h : s.Dwindles t) (h' : t.Dwindles u) : s.Dwindles u where
  entries x hx := by
    obtain ⟨e, he, hxe⟩ := h'.entries x hx
    obtain ⟨e', he', hee⟩ := h.entries e he
    exact ⟨e', he', hxe.trans hee⟩

theorem stays (h : s.Dwindles t) (hob : u.ob = t.ob) : s.Dwindles u := h.trans (same hob)

theorem offersUnordered (h : s.Dwindles t) (xs ys : List EventRecord) : s.Dwindles (t.offersUnordered xs ys) :=
  h.stays (by simp)

theorem after (h : t.Dwindles u) (hob : t.ob = s.ob) : s.Dwindles u := (same hob).trans h

/-- A sweep that leaves each entry's timing. -/
theorem sweep {f : OutEntry → OutEntry × Option Outcome} (hf : ∀ e ∈ s.ob.entries, (f e).1.timing = e.timing)
    (ht : t.ob.entries = (Machine.sweep f s.ob.entries).1) : s.Dwindles t where
  entries x hx := by
    rw [ht, sweep_fst] at hx
    obtain ⟨e, he, hxe⟩ := List.mem_filterMap.1 hx
    simp only [Option.ite_none_right_eq_some, Option.some.injEq] at hxe
    exact ⟨e, he, hxe.2 ▸ hf e he⟩

theorem sweepOutbox {f : OutEntry → OutEntry × Option Outcome} (hf : ∀ e ∈ s.ob.entries, (f e).1.timing = e.timing) :
    s.Dwindles (s.sweepOutbox f) :=
  sweep hf (by simp [State.sweepOutbox])

/-! The judgement of a slot. -/

theorem peerGone (s : State) (z : Station) (slot : Nat) (reason : LossReason) :
    s.Dwindles (s.peerGone z slot reason).1 := by
  by_cases h : s.st.heldSlots z ≠ [] ∨ s.st.peer z = none
  · exact same (by rw [State.peerGone_stays h])
  · obtain ⟨hheld, hp⟩ := not_or.1 h
    obtain ⟨p, hp⟩ := Option.ne_none_iff_exists'.1 hp
    exact sweep (fun e _ => OutEntry.timing_depart z e) (by rw [State.peerGone_leaves (not_not.1 hheld) hp])

theorem loseHeld (s : State) (z : Station) (slot : Nat) (reason : LossReason) : s.Dwindles (s.loseHeld z slot reason) :=
  (peerGone s z slot reason).stays rfl

theorem recordClaim (s : State) (r : Nat) (c : Station) : s.Dwindles (s.recordClaim r c) := by
  unfold State.recordClaim
  extract_lets before t u
  have hu : s.Dwindles u := by
    simp only [u]
    clear_value before
    split
    · split
      · exact same rfl
      · exact (loseHeld t ..).after rfl
    · exact same rfl
    · exact same rfl
  split
  · exact same rfl
  · split
    · exact hu.stays (by simp)
    · exact hu

theorem applyClaim (s : State) (r c : Nat) : s.Dwindles (s.applyClaim r c) := by
  unfold State.applyClaim
  extract_lets t
  have ht : s.Dwindles t := by
    simp only [t]
    split
    · exact recordClaim ..
    · exact same rfl
  split
  · exact ht.stays rfl
  · exact ht

theorem seeOwner (s : State) (slot : Nat) (z : Station) : s.Dwindles (s.seeOwner slot z) := by
  unfold State.seeOwner
  extract_lets before put checked gone
  have hchecked : s.Dwindles checked := by
    simp only [checked]
    split <;> exact same (by simp [put])
  have hgone : s.Dwindles gone.1 := by
    simp only [gone]
    clear_value before checked
    split
    · split
      · exact hchecked
      · exact hchecked.trans (peerGone ..)
    · exact hchecked
    · exact hchecked
  clear_value gone
  split
  · exact hgone.stays rfl
  · exact (hgone.stays (u := { gone.1 with st := gone.1.st.addPeer z s.ct.cycle }) rfl).offersUnordered _ _

theorem seeSilence (s : State) (slot : Nat) : s.Dwindles (s.seeSilence slot) := by
  unfold State.seeSilence
  split
  · exact same rfl
  · split
    · dsimp only
      split <;> exact same (by simp)
    · exact same rfl
  · split
    · exact same rfl
    · dsimp only
      split
      · exact same (by simp)
      · exact (loseHeld ..).after rfl

theorem applyRelease (s : State) (z : Station) (r : Nat) : s.Dwindles (State.applyRelease z s r) := by
  unfold State.applyRelease
  split
  · exact same rfl
  · split <;> exact same rfl
  · split
    · exact (loseHeld ..).after rfl
    · exact same rfl

theorem judgeHeard (s : State) (slot : Nat) : s.Dwindles (s.judgeHeard slot) := by
  unfold State.judgeHeard
  split
  · exact applyClaim ..
  · exact List.foldlRecOn (motive := fun t => s.Dwindles t) _ _ (seeOwner ..) fun t ht r _ =>
      ht.trans (applyRelease t _ r)
  · exact seeSilence ..
  · exact seeSilence ..

theorem judge (s : State) : s.Dwindles s.judge := by
  cases hslot : s.ct.slotIndex with
  | none => exact same (by rw [State.judge, hslot])
  | some slot =>
    have hverdict : s.Dwindles (s.verdict slot) := by
      unfold State.verdict
      split
      · exact applyClaim ..
      · split
        · exact same rfl
        · exact same (by simp)
      · exact same (by simp)
      · exact judgeHeard ..
      · exact judgeHeard ..
    rw [State.judge_eq hslot]
    exact hverdict.stays rfl

end State.Dwindles

end Sys2Proof.Machine
end

section
/-! PROOFS. The law of the due positions through the operations on the queue, the outbox and the frame, and through the judgement of a slot and the reception of a frame. -/

namespace Sys2Proof.Machine

/-- What an operation leaves that brings no record and no send: the image, the cycle timer and the inputs, and of the
records and entries at most those that stood. -/
structure State.Wanes (s t : State) : Prop where
  image : t.sc.image = s.sc.image
  run : t.sc.state.cyclesRun = s.sc.state.cyclesRun
  config : t.sc.state ≠ .config → s.sc.state ≠ .config
  ct : t.ct = s.ct
  records : t.cq.records.Sublist s.cq.records
  entries : s.Dwindles t
  trig0 : t.trig0.binding = s.trig0.binding
  trig1 : t.trig1.binding = s.trig1.binding

/-- The lead that an item carries is in range (R42). -/
def TxItem.LeadInRange (item : TxItem) : Prop :=
  ∀ n retry lead contents, item = .cue n retry lead contents → 1 ≤ lead ∧ lead ≤ 1023

/-- Cycles run and no opening is in progress. -/
def State.InSlots (s : State) : Prop := s.sc.state.cyclesRun = true ∧ s.ct.phase = .slots

theorem State.InSlots.of_same {s t : State} (h : s.InSlots) (hsc : t.sc = s.sc) (hct : t.ct = s.ct) : t.InSlots := by
  unfold State.InSlots
  rw [hsc, hct]
  exact h

/-- The frame in transmission is one that was, in a slot not judged since. -/
def State.Carries (s t : State) : Prop :=
  t.fb.transmission ≠ none → t.fb.transmission = s.fb.transmission ∧ t.slot.judged = s.slot.judged

theorem State.Carries.idle {s t : State} (h : t.fb.transmission = none) : s.Carries t := fun hn => absurd h hn

namespace State.Wanes

variable {s t : State}

theorem shift (h : s.Shifts t) (hct : t.ct = s.ct) (hcq : t.cq.records.Sublist s.cq.records) (hob : s.Dwindles t)
    (h0 : t.trig0.binding = s.trig0.binding) (h1 : t.trig1.binding = s.trig1.binding) : s.Wanes t where
  image := h.image
  run := by
    rcases h.moves.eq_or_cyclesRun with heq | ⟨hrun, hrun'⟩
    · rw [heq]
    · rw [hrun, hrun']
  config hs := by
    rcases h.moves.eq_or_cyclesRun with heq | ⟨hrun, -⟩
    · exact heq ▸ hs
    · exact StationState.ne_config_of_cyclesRun hrun
  ct := hct
  records := hcq
  entries := hob
  trig0 := h0
  trig1 := h1

/-- What leaves the station controller too. -/
theorem stay (hsc : t.sc = s.sc) (hct : t.ct = s.ct) (hcq : t.cq.records.Sublist s.cq.records) (hob : s.Dwindles t)
    (h0 : t.trig0.binding = s.trig0.binding) (h1 : t.trig1.binding = s.trig1.binding) : s.Wanes t :=
  shift (.of_sc hsc) hct hcq hob h0 h1

theorem judge (s : State) : s.Wanes s.judge :=
  shift (.judge s) (by simp) (by simp) (.judge s) (by simp) (by simp)

end State.Wanes

namespace State.DueLawful

variable {s t : State} {slot : Nat}

/-! ## What the law says of the entries and the window -/

theorem timely (h : s.DueLawful) {e : OutEntry} (he : e ∈ s.ob.entries) : e.Timely s.slots s.window s.ct.cycle where
  template := h.templates e he
  sent := h.sent e he

/-- R166: a window is at most 16 cycles long. -/
theorem window_le (h : s.DueLawful) : s.window ≤ 16 := by
  unfold State.window
  cases him : s.sc.image with
  | none => exact Nat.zero_le _
  | some im => exact (h.images im him).window.2

theorem window_pos (h : s.DueLawful) (hs : s.sc.state ≠ .config) : 1 ≤ s.window := by
  obtain ⟨im, him⟩ := Option.isSome_iff_exists.1 (h.configured hs)
  have hw := (h.images im him).window.1
  have heq : s.window = im.window := by simp [State.window, him]
  omega

theorem patience_le (h : s.DueLawful) (e : OutEntry) : e.patience s.window ≤ 16 := by
  have hw := h.window_le
  unfold OutEntry.patience
  split
  · exact (Nat.min_le_left ..).trans hw
  · exact hw

/-! ## Operations that bring nothing -/

/-- R42: what only takes away keeps every due position. -/
theorem wane (h : s.DueLawful) (hw : s.Wanes t) (hframe : s.Carries t) : t.DueLawful := by
  have hslots : t.slots = s.slots := by unfold State.slots; rw [hw.image]
  have hwindow : t.window = s.window := by unfold State.window; rw [hw.image]
  have hdist : ∀ r, t.distanceTo r = s.distanceTo r := fun r => by unfold State.distanceTo; rw [hw.ct]
  have htimely : ∀ x ∈ t.ob.entries, x.Timely s.slots s.window s.ct.cycle := fun x hx => by
    obtain ⟨e, he, hxe⟩ := hw.entries.entries x hx
    exact (h.timely he).of_timing hxe
  have hnone : s.ob.entries = [] → t.ob.entries = [] := fun hn => List.eq_nil_iff_forall_not_mem.2 fun x hx => by
    obtain ⟨e, he, -⟩ := hw.entries.entries x hx
    rw [hn] at he
    cases he
  exact {
    images := by rw [hw.image]; exact h.images
    configured := fun hs => hw.image ▸ h.configured (hw.config hs)
    standing := fun hr => List.sublist_nil.1 (h.standing (hw.run ▸ hr) ▸ hw.records)
    inReach := fun r hr => by rw [hdist, hslots]; exact h.inReach r (hw.records.subset hr)
    unfired := fun r hr h0 => by rw [hw.ct]; exact h.unfired r (hw.records.subset hr) (hdist r ▸ h0)
    ordered := by simpa only [hdist] using h.ordered.sublist hw.records
    observing := fun hp hr => by
      rw [hw.ct] at hp hr
      obtain ⟨hrecords, hsend⟩ := h.observing hp hr
      refine ⟨List.sublist_nil.1 (hrecords ▸ hw.records), fun x hx => ?_⟩
      obtain ⟨e, he, hxe⟩ := hw.entries.entries x hx
      exact OutEntry.send_none_of_timing (hsend e he) hxe
    proposing := by rw [hw.ct, hw.run]; exact h.proposing
    settled := by rw [hw.ct, hw.run]; exact h.settled
    settling := by rw [hw.ct]; exact h.settling
    sending := fun hf => by
      obtain ⟨heq, hjudged⟩ := hframe hf
      rw [hw.run, hw.ct, hjudged]
      exact h.sending (heq ▸ hf)
    items := fun f hf => h.items f ((hframe (by simp [hf])).1 ▸ hf)
    templates := fun x hx => by rw [hslots]; exact (htimely x hx).template
    sent := fun x hx => by
      rw [hwindow, hw.ct]
      exact (htimely x hx).sent
    bindings := fun i b hb => h.bindings i b (by cases i <;> simpa [State.trigger, hw.trig0, hw.trig1] using hb)
    resting := fun hr => hnone (h.resting (hw.run ▸ hr)) }

theorem same (h : s.DueLawful) (hsc : t.sc = s.sc) (hct : t.ct = s.ct) (hcq : t.cq.records = s.cq.records)
    (hob : t.ob = s.ob) (h0 : t.trig0.binding = s.trig0.binding) (h1 : t.trig1.binding = s.trig1.binding)
    (hfb : t.fb.transmission = s.fb.transmission) (hjudged : t.slot.judged = s.slot.judged) : t.DueLawful :=
  h.wane (.stay hsc hct (by rw [hcq]) (.same hob) h0 h1) fun _ => ⟨hfb, hjudged⟩

theorem offers (h : s.DueLawful) (rs : List EventRecord) : (s.offers rs).DueLawful :=
  h.same rfl rfl rfl rfl rfl rfl rfl rfl

theorem offersUnordered (h : s.DueLawful) (xs ys : List EventRecord) : (s.offersUnordered xs ys).DueLawful :=
  h.same (by simp) (by simp) (by simp) (by simp) (by simp) (by simp) (by simp) (by simp)

theorem counters (h : s.DueLawful) (c : Counters) : ({ s with counters := c } : State).DueLawful :=
  h.same rfl rfl rfl rfl rfl rfl rfl rfl

theorem countFormat (h : s.DueLawful) : s.countFormat.DueLawful := h.counters _

/-- What leaves the frame, the queue and the timer, and of the entries their timing. -/
theorem dwindle (h : s.DueLawful) (hsc : t.sc = s.sc) (hct : t.ct = s.ct) (hcq : t.cq.records.Sublist s.cq.records)
    (hob : s.Dwindles t) (h0 : t.trig0.binding = s.trig0.binding) (h1 : t.trig1.binding = s.trig1.binding)
    (hfb : t.fb.transmission = s.fb.transmission) (hjudged : t.slot.judged = s.slot.judged) : t.DueLawful :=
  h.wane (.stay hsc hct hcq hob h0 h1) fun _ => ⟨hfb, hjudged⟩

/-- A sweep that leaves each entry's timing. -/
theorem sweepKeeping (h : s.DueLawful) {f : OutEntry → OutEntry × Option Outcome}
    (hf : ∀ e, (f e).1.timing = e.timing) : (s.sweepOutbox f).DueLawful :=
  h.dwindle (by simp) (by simp) (by simp) (.sweepOutbox fun e _ => hf e) (by simp) (by simp) (by simp) (by simp)

theorem queue (h : s.DueLawful) {q : CueQueue} (hq : q.records.Sublist s.cq.records) :
    ({ s with cq := q } : State).DueLawful :=
  h.dwindle rfl rfl hq (.same rfl) rfl rfl rfl rfl

/-! ## The queue and the outbox -/

/-- R51: a cue in range enters the queue in a slot. -/
theorem enters (h : s.DueLawful) (hin : s.InSlots) {item : CueItem} (hlead : 1 ≤ item.lead ∧ item.lead ≤ 1023)
    (hslot : item.contents.dueSlot < s.slots) :
    ({ s with cq := (s.cq.takeCue s.ct.cycle item).1 } : State).DueLawful := by
  rcases s.cq.takeCue_records s.ct.cycle item with hsub | ⟨l, r, hl, heq, hcycle, hdue⟩
  · exact h.queue hsub
  · have hdist : s.distanceTo r = item.lead := by
      unfold State.distanceTo
      rw [hcycle, distance_ahead s.ct.cycle hlead.2]
    have hmem : ∀ x ∈ (s.cq.takeCue s.ct.cycle item).1.records, x = r ∨ x ∈ s.cq.records := fun x hx => by
      rw [heq] at hx
      exact (mem_insertRecord.1 hx).imp_right fun hm => hl.subset hm
    exact {
      h with
      standing := fun hr => by simp [hin.1] at hr
      inReach := fun x hx => by
        rcases hmem x hx with rfl | hx
        · exact ⟨hdist.le.trans hlead.2, hdue ▸ hslot⟩
        · exact h.inReach x hx
      unfired := fun x hx h0 => by
        rcases hmem x hx with rfl | hx
        · exact absurd (hdist.symm.trans h0) (by omega)
        · exact h.unfired x hx h0
      ordered := by
        have hordered := insertRecord_ordered (h.ordered.sublist hl) r
        rw [← heq] at hordered
        exact hordered
      observing := fun hp => by
        rw [show s.ct.phase = .slots from hin.2] at hp
        cases hp }

/-- Entries replaced by timely ones. -/
theorem outbox (h : s.DueLawful) {ob : Outbox} (hall : ∀ e ∈ ob.entries, e.Timely s.slots s.window s.ct.cycle)
    (hobserving : s.ct.phase = .opening → s.ct.role ≠ .participant → ∀ e ∈ ob.entries, e.send = none)
    (hresting : s.sc.state.cyclesRun = false → ob.entries = []) : ({ s with ob := ob } : State).DueLawful :=
  { h with
    observing := fun hp hr => ⟨(h.observing hp hr).1, hobserving hp hr⟩
    templates := fun e he => (hall e he).template
    sent := fun e he => (hall e he).sent
    resting := hresting }

/-- A sweep in a slot that leaves the entries timely. -/
theorem sweepOutbox (h : s.DueLawful) (hin : s.InSlots) {f : OutEntry → OutEntry × Option Outcome}
    (hf : ∀ e ∈ s.ob.entries, (f e).1.Timely s.slots s.window s.ct.cycle) : (s.sweepOutbox f).DueLawful := by
  refine DueLawful.offers (s := { s with ob := { s.ob with entries := (sweep f s.ob.entries).1 } }) ?_ _
  refine h.outbox (fun x hx => ?_) (fun hp => ?_) fun hr => ?_
  · rw [sweep_fst] at hx
    obtain ⟨e, he, hxe⟩ := List.mem_filterMap.1 hx
    simp only [Option.ite_none_right_eq_some, Option.some.injEq] at hxe
    exact hxe.2 ▸ hf e he
  · rw [hin.2] at hp
    cases hp
  · rw [hin.1] at hr
    cases hr

/-- R86 to R90: an entry created, not yet sent. -/
theorem created (h : s.DueLawful) (hrun : s.sc.state.cyclesRun = true) {ob : Outbox}
    (hob : ∀ x ∈ ob.entries, (∃ e ∈ s.ob.entries, x.timing = e.timing) ∨
      (x.send = none ∧ ∀ t, x.template = some t → t.InRange s.slots)) : ({ s with ob := ob } : State).DueLawful := by
  refine h.outbox (fun x hx => ?_) (fun hp hr x hx => ?_) fun hr => ?_
  · rcases hob x hx with ⟨e, he, hxe⟩ | ⟨hsend, ht⟩
    · exact (h.timely he).of_timing hxe
    · exact ⟨ht, fun d hd => by simp [hsend] at hd⟩
  · rcases hob x hx with ⟨e, he, hxe⟩ | ⟨hsend, -⟩
    · exact OutEntry.send_none_of_timing ((h.observing hp hr).2 e he) hxe
    · exact hsend
  · rw [hrun] at hr
    cases hr

/-! ## Sends (R93, R94, R117) -/

/-- R93: the send data of a first send are timely. -/
theorem firstSend (h : s.DueLawful) (hs : s.sc.state ≠ .config) {e : OutEntry}
    (ht : ∀ t, e.template = some t → t.InRange s.slots) (hsend : e.send = some (s.firstSend (e.patience s.window))) :
    e.Timely s.slots s.window s.ct.cycle := by
  refine ⟨ht, fun d hd => ?_⟩
  obtain rfl := Option.some.inj (hsend.symm.trans hd)
  refine ⟨?_, rfl, later_ahead _ ?_ ((h.patience_le e).trans (by omega))⟩
  · simp [State.firstSend]
  · have hw := h.window_pos hs
    unfold OutEntry.patience
    split
    · next t htt =>
      have hlead := (ht t htt).1
      omega
    · exact hw

theorem cancelSelf (h : s.DueLawful) (n : Serial) (v : Verdict) : (s.cancelSelf n v).DueLawful :=
  h.sweepKeeping (timing_onEntry fun _ => rfl)

theorem ownVerdict (h : s.DueLawful) (n : Serial) (v : Verdict) : (s.ownVerdict n v).DueLawful := by
  unfold State.ownVerdict
  split
  · exact h.sweepKeeping (timing_onEntry fun _ => rfl)
  · exact h.cancelSelf n v

theorem offerOwn (h : s.DueLawful) (hin : s.InSlots) {item : CueItem} (hlead : 1 ≤ item.lead ∧ item.lead ≤ 1023)
    (hslot : item.contents.dueSlot < s.slots) : (s.offerOwn item).DueLawful :=
  ((h.enters hin hlead hslot).offers _).ownVerdict _ _

theorem settleEntry (h : s.DueLawful) (kind : CueKind) (n : Serial) :
    (s.sweepOutbox (onEntry kind n OutEntry.settle)).DueLawful :=
  h.sweepKeeping (timing_onEntry fun _ => rfl)

theorem cueFirstSend (h : s.DueLawful) (hin : s.InSlots) (n : Serial) {t : CueTemplate} (ht : t.InRange s.slots)
    (pending : Bool) : (s.cueFirstSend n t pending).DueLawful := by
  obtain ⟨hlead, hmax, hslot⟩ := ht
  unfold State.cueFirstSend
  extract_lets id sent offered cancelled settled closed
  have hsent : sent.DueLawful := h.sweepOutbox hin fun e he => by
    unfold onEntry
    split
    · refine h.firstSend (StationState.ne_config_of_cyclesRun hin.1) (fun t' ht' => ?_) rfl
      obtain rfl := Option.some.inj ht'
      exact ⟨hlead, hmax, hslot⟩
    · exact h.timely he
  have hoffered : offered.DueLawful :=
    hsent.offerOwn (hin.of_same (by simp [sent]) (by simp [sent])) ⟨hlead, hmax⟩ hslot
  have hsettled : settled.DueLawful := by
    simp only [settled]
    split
    · exact (hoffered.queue (CueQueue.takeCancel_sublist _ _).2).cancelSelf _ _
    · exact hoffered
  split
  · exact (hsettled.settleEntry .cue n).sweepKeeping (timing_onEntry fun _ => rfl)
  · exact hsettled.settleEntry .cue n

/-- R94: a retry leaves the first send and the deadline. -/
theorem again (h : s.DueLawful) (kind : CueKind) (n : Serial) (state : OutState) :
    (s.sweepOutbox (onEntry kind n fun e =>
      ({ e with state := state, send := e.send.map fun d => d.again s.ct.cycle }, none))).DueLawful :=
  h.sweepKeeping (timing_onEntry fun e => by
    cases hd : e.send <;> simp [OutEntry.timing, OutEntry.template, hd, SendData.again])

theorem cueRetrySent (h : s.DueLawful) (hin : s.InSlots) (n : Serial) {t : CueTemplate} (ht : t.InRange s.slots)
    {lead : Nat} (hlead : 1 ≤ lead ∧ lead ≤ 1023) : (s.cueRetrySent n t lead).DueLawful :=
  (h.again .cue n .sent).offerOwn (hin.of_same (by simp) (by simp)) hlead ht.2.2

theorem cancelFirstSend (h : s.DueLawful) (hin : s.InSlots) (n : Serial) (self : Option Verdict) :
    (s.cancelFirstSend n self).DueLawful := by
  unfold State.cancelFirstSend
  extract_lets sent searched taken
  have hsent : sent.DueLawful := h.sweepOutbox hin fun e he => by
    unfold onEntry
    split
    · next hn =>
      have hkind : e.template = none := by
        have hcancel := (OutEntry.named_iff.1 hn).1
        unfold OutEntry.cueKind OutEntry.isCue at hcancel
        unfold OutEntry.template
        cases hk : e.kind <;> simp [hk] at hcancel ⊢
      refine h.firstSend (StationState.ne_config_of_cyclesRun hin.1) (fun t' ht' => ?_) ?_
      · exact absurd (hkind.symm.trans ht') nofun
      · have hp : e.patience s.window = s.window := by
          unfold OutEntry.patience
          rw [hkind]
        exact congrArg (fun m => some (s.firstSend m)) hp.symm
    · exact h.timely he
  have htaken : taken.DueLawful := by
    simp only [taken]
    split
    · exact hsent
    · exact (hsent.queue (CueQueue.takeCancel_sublist _ _).1).cancelSelf _ _
  exact htaken.settleEntry .cancel n

theorem itemSent (h : s.DueLawful) (hin : s.InSlots) {item : TxItem} (hitem : item.LeadInRange) :
    (s.itemSent item).DueLawful := by
  unfold State.itemSent
  split
  · exact h
  · exact h
  · next n retry lead contents =>
    split
    · next hfind =>
      exact h.cueFirstSend hin n (h.templates _ (Outbox.find_spec hfind).1 _ rfl) _
    · next hfind =>
      exact h.cueRetrySent hin n (h.templates _ (Outbox.find_spec hfind).1 _ rfl) (hitem n retry lead contents rfl)
    · exact h
  · split
    · exact h.cancelFirstSend hin _ _
    · exact h.again .cancel _ .sent
    · exact h

theorem itemsSent (h : s.DueLawful) (hin : s.InSlots) {items : List TxItem} (hitems : ∀ i ∈ items, i.LeadInRange) :
    (items.foldl State.itemSent s).DueLawful :=
  (List.foldlRecOn (motive := fun t => t.DueLawful ∧ t.InSlots) items State.itemSent ⟨h, hin⟩ fun t ⟨ht, hti⟩ item hi =>
    ⟨ht.itemSent hti (hitems item hi), hti.of_same (by simp) (by simp)⟩).1

/-! ## The outcome of an own frame (R116 to R119) -/

theorem inSlots_of_sending (h : s.DueLawful) {f : TxFrame} (hf : s.fb.transmission = some f) : s.InSlots := by
  obtain ⟨hrun, hphase, -⟩ := h.sending (by simp [hf])
  exact ⟨hrun, hphase⟩

theorem lead_of_sending (h : s.DueLawful) {f : TxFrame} (hf : s.fb.transmission = some f) :
    ∀ i ∈ f.items, i.LeadInRange := fun _ hi n retry lead contents heq => h.items f hf n retry lead contents (heq ▸ hi)

/-- What ends the frame in transmission, and beside it takes away at most. -/
theorem endFrame (h : s.DueLawful) {lc : LineController} (own : OwnOutcome) :
    ({ s.endFrame own with lc := lc } : State).DueLawful :=
  h.wane (.stay rfl rfl (.refl _) (.same rfl) rfl rfl) (.idle rfl)

theorem frameDone (h : s.DueLawful) {f : TxFrame} (hf : s.fb.transmission = some f) (slot : Nat) :
    (s.frameDone slot f).DueLawful := by
  unfold State.frameDone
  extract_lets fb t u v
  have ht : t.DueLawful := h.same rfl rfl rfl rfl rfl rfl rfl rfl
  have hu : u.DueLawful := ht.itemsSent (h.inSlots_of_sending hf) (h.lead_of_sending hf)
  have hset : (u.setFailures slot 0).DueLawful :=
    hu.same (by simp) (by simp) (by simp) (by simp) (by simp) (by simp) (by simp) (by simp)
  have hv : v.DueLawful := hset.endFrame (lc := v.lc) _
  split
  · exact hv.wane (.shift (.releaseOwn v slot) (by simp) (by simp) (.same (by simp)) (by simp) (by simp))
      (.idle ((State.Cedes.releaseOwn v slot).transmission.trans rfl))
  · exact hv

theorem timing_fail (talking : Bool) (e : OutEntry) : (e.fail talking).1.timing = e.timing := by
  unfold OutEntry.fail
  split_ifs <;> rfl

theorem itemsFailed (h : s.DueLawful) (items : List TxItem) : (s.itemsFailed items).DueLawful :=
  h.sweepKeeping fun e => by
    unfold OutEntry.takenBack
    dsimp only
    split_ifs
    · exact timing_fail _ e
    · rfl
    · rfl

theorem frameBroken (h : s.DueLawful) (slot : Nat) (f : TxFrame) : (s.frameBroken slot f).DueLawful := by
  unfold State.frameBroken
  extract_lets fb t u v
  have ht : t.DueLawful := h.same rfl rfl rfl rfl rfl rfl rfl rfl
  have hu : u.DueLawful := ht.itemsFailed _
  have hv : v.DueLawful := by
    simp only [v]
    split
    · exact hu.same (by simp) (by simp) (by simp) (by simp) (by simp) (by simp) (by simp) (by simp)
    · exact hu
  exact DueLawful.endFrame (s := v.countOwnFailure) (lc := v.lc.release) (hv.counters _) _

theorem frameBeaten (h : s.DueLawful) (slot : Nat) (f : TxFrame) : (s.frameBeaten slot f).DueLawful := by
  unfold State.frameBeaten
  extract_lets fb t u v
  have ht : t.DueLawful := h.same rfl rfl rfl rfl rfl rfl rfl rfl
  have hv : v.DueLawful := DueLawful.endFrame (s := t.itemsFailed f.items) (ht.itemsFailed _) _
  exact hv.wane (.shift (.loseOwn v slot) (by simp) (by simp) (.same (by simp)) (by simp) (by simp))
    (.idle ((State.Cedes.loseOwn v slot).transmission.trans rfl))

/-! ## The judgement and reception -/

theorem judge (h : s.DueLawful) (hfb : s.fb.transmission = none) : s.judge.DueLawful :=
  h.wane (.judge s) (.idle (s.judge_transmission.trans hfb))

theorem judgeLate (h : s.DueLawful) (hfb : s.fb.transmission = none) : s.judgeLate.DueLawful := by
  unfold State.judgeLate
  split
  · exact h.judge hfb
  · exact h

/-- A note of the slot's finding or of its state, where no own frame is in transmission. -/
theorem report (h : s.DueLawful) (hfb : s.fb.transmission = none) (slot : SlotReport) (lc : LineController) :
    ({ s with slot := slot, lc := lc } : State).DueLawful :=
  h.wane (.stay rfl rfl (.refl _) (.same rfl) rfl rfl) (.idle hfb)

theorem note (h : s.DueLawful) (hfb : s.fb.transmission = none) (f : Finding) : (s.note f).DueLawful := h.report hfb _ _

theorem frameLost (h : s.DueLawful) (hfb : s.fb.transmission = none) : s.frameLost.DueLawful :=
  (h.countFormat.note hfb _).judgeLate hfb

theorem stage (h : s.DueLawful) (id : CueId) (v : Verdict) : (s.stage id v).DueLawful :=
  h.same (by simp) (by simp) (by simp) (by simp) (by simp) (by simp) (State.Hears.stage_transmission ..) (by simp)

theorem timing_answer (z : Station) (v : Verdict) (e : OutEntry) :
    OutEntry.timing { e with send := e.send.map fun d => d.answer z v } = e.timing := by
  cases hd : e.send with
  | none => simp [OutEntry.timing, OutEntry.template, hd]
  | some d =>
    have hkept : (d.answer z v).firstSend = d.firstSend ∧ (d.answer z v).deadline = d.deadline := by
      unfold SendData.answer
      split <;> exact ⟨rfl, rfl⟩
    simp [OutEntry.timing, OutEntry.template, hd, hkept]

theorem takeAck (h : s.DueLawful) (z : Station) (n : Serial) (v : Verdict) : (s.takeAck z n v).DueLawful := by
  unfold State.takeAck
  split
  · exact h.counters _
  · split
    · exact h.sweepKeeping (timing_onEntry (timing_answer z v))
    · exact h.counters _

theorem dispatch (h : s.DueLawful) (hin : s.InSlots) (z : Station) {item : LineItem} (hitem : item.Valid s.slots) :
    (State.dispatch z s item).DueLawful := by
  cases item with
  | cue serial retry lead contents => exact ((h.enters hin hitem.lead hitem.dueSlot).offers _).stage _ _
  | cancel serial => exact (h.queue (CueQueue.takeCancel_sublist _ _).1).stage _ _
  | ack originator serial verdict =>
    unfold State.dispatch
    dsimp only
    split
    · exact h.takeAck _ _ _
    · exact h
  | release slot => exact h.same rfl rfl rfl rfl rfl rfl rfl rfl

theorem takeFrame (h : s.DueLawful) (hin : s.InSlots) (z : Station) (bs : List Byte) :
    (s.takeFrame z bs).DueLawful := by
  have hitems : ∀ items : List LineItem, (∀ i ∈ items, i.Valid s.slots) →
      (items.foldl (State.dispatch z) s).DueLawful :=
    fun items hvalid =>
      (List.foldlRecOn (motive := fun t => t.DueLawful ∧ s.Hears t) items _ ⟨h, .refl s⟩ fun t ⟨ht, hears⟩ item hi => by
        have hslots : t.slots = s.slots := by unfold State.slots; rw [hears.sc]
        exact ⟨ht.dispatch (hin.of_same hears.sc hears.ct) z (hslots ▸ hvalid item hi),
          hears.trans (.dispatch t z item)⟩).1
  unfold State.takeFrame
  split
  · dsimp only
    split
    · exact (hitems _ fun _ => LineItem.valid_of_mem_parseItems).countFormat
    · exact hitems _ fun _ => LineItem.valid_of_mem_parseItems
  · exact h.counters _

end State.DueLawful

end Sys2Proof.Machine
end

section
/-! PROOFS. The law of the due positions through the openings and the slots, and through every row and every step. -/

namespace Sys2Proof.Machine

namespace State.DueLawful

variable {s t : State} {slot : Nat}

/-! ## Where nothing is held and nothing sent -/

/-- The law with an empty queue and an empty outbox. -/
theorem ofEmpty (himages : ∀ im, t.sc.image = some im → im.Valid)
    (hconfigured : t.sc.state ≠ .config → t.sc.image.isSome = true) (hcq : t.cq.records = []) (hob : t.ob.entries = [])
    (hfb : t.fb.transmission = none)
    (hquiet : t.sc.state.cyclesRun = true → t.ct.role = .participant → t.ct.phase ≠ .opening ∧ t.ct.opening = none)
    (hsettling : t.ct.phase = .opening → ∃ o, t.ct.opening = some o)
    (hbindings : ∀ i b, (t.trigger i).binding = some b → 1 ≤ b.template.lead ∧ b.template.lead ≤ 1023) :
    t.DueLawful where
  images := himages
  configured := hconfigured
  standing _ := hcq
  inReach r hr := by rw [hcq] at hr; cases hr
  unfired r hr := by rw [hcq] at hr; cases hr
  ordered := by rw [hcq]; exact .nil
  observing _ _ := ⟨hcq, fun e he => by rw [hob] at he; cases he⟩
  proposing hrun hp hr := absurd hp (hquiet hrun hr).1
  settled hrun hr o ho := by rw [(hquiet hrun hr).2] at ho; cases ho
  settling := hsettling
  sending hf := absurd hfb hf
  items f hf := by rw [hfb] at hf; cases hf
  templates e he := by rw [hob] at he; cases he
  sent e he := by rw [hob] at he; cases he
  bindings := hbindings
  resting _ := hob

/-- What empties the queue and the outbox of a configured station. -/
theorem cleared (h : s.DueLawful) (hs : s.sc.state ≠ .config) (himage : t.sc.image = s.sc.image)
    (h0 : t.trig0 = s.trig0) (h1 : t.trig1 = s.trig1) (hcq : t.cq.records = []) (hob : t.ob.entries = [])
    (hfb : t.fb.transmission = none)
    (hquiet : t.sc.state.cyclesRun = true → t.ct.role = .participant → t.ct.phase ≠ .opening ∧ t.ct.opening = none)
    (hsettling : t.ct.phase = .opening → ∃ o, t.ct.opening = some o) : t.DueLawful :=
  ofEmpty (by rw [himage]; exact h.images) (fun _ => himage ▸ h.configured hs) hcq hob hfb hquiet hsettling
    fun i b hb => h.bindings i b (by cases i <;> simpa [State.trigger, h0, h1] using hb)

theorem enterHalted (h : s.DueLawful) (hs : s.sc.state ≠ .config) (reason : FaultReason) :
    (s.enterHalted reason).DueLawful :=
  h.cleared (t := s.enterHalted reason) hs rfl rfl rfl rfl rfl rfl nofun nofun

theorem enterLineFault (h : s.DueLawful) (hs : s.sc.state ≠ .config) (reason : FaultReason) :
    (s.enterLineFault reason).DueLawful :=
  h.cleared (t := s.enterLineFault reason) hs rfl rfl rfl rfl rfl rfl nofun nofun

theorem transmission_none (h : s.DueLawful) (hp : s.ct.phase ≠ .slots ∨ s.sc.state.cyclesRun = false) :
    s.fb.transmission = none := by
  by_contra hf
  obtain ⟨hrun, hphase, -⟩ := h.sending hf
  rcases hp with hp | hp
  · exact hp hphase
  · simp [hrun] at hp

/-- Where no cycles run, the timer may start to wait, to observe or to take part. -/
theorem standingBy (h : s.DueLawful) (hrun : s.sc.state.cyclesRun = false) {ct : CycleTimer} {lc : LineController}
    (hs : s.sc.state ≠ .config) (hsettling : ct.phase = .opening → ∃ o, ct.opening = some o) :
    ({ s with ct := ct, lc := lc } : State).DueLawful :=
  h.cleared hs rfl rfl rfl (h.standing hrun) (h.resting hrun) (h.transmission_none (.inr hrun))
    (fun hr => by simp [show s.sc.state.cyclesRun = true from hr] at hrun) hsettling

/-! ## Reception -/

theorem takeValid (h : s.DueLawful) (hl : s.listens = true) (f : Finding) (bs : List Byte) :
    (s.takeValid f bs).DueLawful := by
  obtain ⟨hrun, hphase, -, -, -, hfb, -⟩ := State.listens_iff.1 hl
  have hs := StationState.ne_config_of_cyclesRun hrun
  unfold State.takeValid
  split
  · next r c =>
    split
    · exact h.enterHalted hs _
    · have hclaim : (s.takeClaim r).DueLawful :=
        h.same (by simp) (by simp) (by simp) (by simp) (by simp) (by simp) (by simp) (by simp)
      exact (hclaim.note (by simpa using hfb) _).judgeLate (by simpa using hfb)
  · next z =>
    split
    · split
      · exact h.enterHalted hs _
      · exact h
    · have hears := State.Hears.takeFrame (s.note (.slotFrame z)) z bs
      exact ((h.note hfb _).takeFrame ⟨hrun, hphase⟩ z bs).judgeLate (hears.transmission.trans hfb)
  · exact h

theorem receive (h : s.DueLawful) (hl : s.listens = true) (bs : List Byte) (framingError : Bool) :
    (s.receive bs framingError).DueLawful := by
  obtain ⟨-, -, -, -, -, hfb, -⟩ := State.listens_iff.1 hl
  unfold State.receive
  split
  · exact h
  · split
    · exact h.takeValid hl _ bs
    · exact ((h.counters _).note (s := s.countCrc) hfb _).judgeLate hfb
    · split
      · exact frameLost (s := { s with slot := { s.slot with swallow := true } }) (h.report hfb _ s.lc) hfb
      · exact h.frameLost hfb

/-! ## The openings (R4 to R16) -/

/-- An opening goes on, with its fields as R7 settles them. -/
theorem reopen (h : s.DueLawful) {o : Opening} {p : Option Nat} {lc : LineController}
    (hsettled : s.sc.state.cyclesRun = true → s.ct.role = .participant → o.stage = .shape → o.backward = false →
      o.number = s.ct.cycle + 1 + o.slip ∧ o.slip.toNat < 2147483648) :
    ({ s with ct := { s.ct with position := p, opening := some o }, lc := lc } : State).DueLawful :=
  { h with
    settled := fun hrun hr o' ho' => by
      obtain rfl := Option.some.inj ho'
      exact hsettled hrun hr
    settling := fun _ => ⟨o, rfl⟩ }

/-- R4: at an opening no record is due in the cycle that ends. -/
theorem beginOpening (h : s.DueLawful) (hslot : s.ct.slotIndex = some (s.slots - 1)) (hfb : s.fb.transmission = none)
    (position : Nat) : (s.beginOpening position).DueLawful :=
  { h with
    unfired := fun r hr h0 => by
      have hbefore := (h.unfired r hr h0).2 _ hslot
      have hreach := (h.inReach r hr).2
      omega
    observing := fun _ hr => absurd rfl hr
    proposing := fun _ _ _ => rfl
    settled := fun _ _ o ho hshape => by
      obtain rfl := Option.some.inj ho
      cases hshape
    settling := fun _ => ⟨_, rfl⟩
    sending := fun hf => absurd hfb hf }

/-- R7: what the number field settles for a station that takes part, where cycles run. -/
theorem settleNumber_spec {damaged : Bool} {cycle winning : Cycle}
    (hback : (settleNumber .participant false damaged cycle (cycle + 1) winning).2.2 = false) :
    (settleNumber .participant false damaged cycle (cycle + 1) winning).1 =
      cycle + 1 + (settleNumber .participant false damaged cycle (cycle + 1) winning).2.1 ∧
    (settleNumber .participant false damaged cycle (cycle + 1) winning).2.1.toNat < 2147483648 := by
  unfold settleNumber at hback ⊢
  dsimp only at hback ⊢
  split
  · exact ⟨(BitVec.add_zero _).symm, Nat.two_pow_pos 31⟩
  · split
    · exact ⟨(BitVec.add_zero _).symm, Nat.two_pow_pos 31⟩
    · split
      · next hlater =>
        have hrange := of_decide_eq_true hlater
        refine ⟨(add_sub_cancel ..).symm, ?_⟩
        show (winning - (cycle + 1)).toNat < 2147483648
        omega
      · simp_all

theorem endNumberField (h : s.DueLawful) (hphase : s.ct.phase = .opening) (o : Opening) (read : BitVec 32)
    (mismatch : Bool) : (s.endNumberField o read mismatch).DueLawful := by
  refine h.reopen (p := some 54) fun hrun hr _ hback => ?_
  have hproposal : s.ct.proposal.getD 0 = s.ct.cycle + 1 := by rw [h.proposing hrun hphase hr]; rfl
  have hlistening : (s.sc.state == .listening) = false := by
    simpa using (StationState.onLine_of_cyclesRun hrun).2
  dsimp only at hback ⊢
  rw [hr, hproposal, hlistening] at hback ⊢
  exact settleNumber_spec hback

/-- What an opening's end leaves (R9, R10, R60, R101). -/
theorem finishOpening_parts (s : State) (o : Opening) :
    (s.finishOpening o).ct = s.ct.settle o.number ∧
    (s.finishOpening o).cq = (if o.slip = 0 then s.cq else s.cq.purge o.number) ∧
    (s.finishOpening o).ob.entries = (sweep (OutEntry.atDeadline o.number) s.ob.entries).1 ∧
    (s.finishOpening o).fb.transmission = s.fb.transmission ∧ (s.finishOpening o).trig0 = s.trig0 ∧
    (s.finishOpening o).trig1 = s.trig1 ∧ (s.finishOpening o).sc.image = s.sc.image := by
  unfold State.finishOpening
  extract_lets deadlines ob t u v
  have hlearn : (v.learnAt s.ct.role o.backward).fb.transmission = v.fb.transmission ∧
      (v.learnAt s.ct.role o.backward).sc.image = v.sc.image := by
    unfold State.learnAt
    split
    · exact ⟨rfl, rfl⟩
    · split <;> exact ⟨rfl, rfl⟩
    all_goals exact ⟨rfl, rfl⟩
  have hv : v.ct = t.ct ∧ v.cq = t.cq ∧ v.ob = t.ob ∧ v.fb = t.fb ∧ v.trig0 = t.trig0 ∧ v.trig1 = t.trig1 ∧
      v.sc = t.sc := by
    simp only [v]
    split <;> simp [u]
  obtain ⟨hct, hcq, hob, hfb, h0, h1, hsc⟩ := hv
  rw [hlearn.1, hlearn.2, hfb, hsc]
  simp only [State.learnAt_frame, hct, hcq, hob, h0, h1]
  exact ⟨rfl, rfl, rfl, rfl, rfl, rfl, rfl⟩

/-- R9, R146: after an opening cycles run. -/
theorem finishOpening_cyclesRun (hs : s.sc.state = .listening ∨ s.sc.state.cyclesRun = true) (o : Opening) :
    (s.finishOpening o).sc.state.cyclesRun = true := by
  unfold State.finishOpening
  extract_lets deadlines ob t u v
  have hv : v.sc = s.sc := by
    simp only [v]
    split <;> simp [u, t]
  rw [← hv] at hs
  unfold State.learnAt
  split
  · rfl
  · next hl =>
    split
    · show StationState.cyclesRun (if v.sc.talkIntent then .claiming else .quiet) = true
      split <;> rfl
    · rw [hl]
      rfl
  all_goals
    next hl =>
      rw [hl] at hs ⊢
      rcases hs with hs | hs <;> cases hs <;> rfl

/-- R9, R10, R60: an opening's end brings every due position nearer by what the number advances. -/
theorem finishOpening (h : s.DueLawful) (hs : s.sc.state = .listening ∨ s.sc.state.cyclesRun = true)
    (hphase : s.ct.phase = .opening) {o : Opening}
    (ho : (s.cq.records = [] ∧ ∀ e ∈ s.ob.entries, e.send = none) ∨
      (o.number = s.ct.cycle + 1 + o.slip ∧ o.slip.toNat < 2147483648)) : (s.finishOpening o).DueLawful := by
  obtain ⟨hct, hcq, hob, hfb, h0, h1, himage⟩ := finishOpening_parts s o
  have hrun := finishOpening_cyclesRun hs o
  generalize s.finishOpening o = t at *
  have hslots : t.slots = s.slots := by unfold State.slots; rw [himage]
  have hwindow : t.window = s.window := by unfold State.window; rw [himage]
  have hsub : t.cq.records.Sublist s.cq.records := by
    rw [hcq]
    split
    · exact .refl _
    · exact s.cq.remove_sublist ..
  have hnear : ∀ r ∈ t.cq.records, t.distanceTo r + (o.slip.toNat + 1) = s.distanceTo r := fun r hr => by
    have hmem := hsub.subset hr
    rcases ho with ⟨hrecords, -⟩ | ⟨hnumber, hslip⟩
    · rw [hrecords] at hmem
      cases hmem
    · have hfar : s.distanceTo r ≠ 0 := fun hz => by
        rw [(h.unfired r hmem hz).1] at hphase
        cases hphase
      have hreach := (h.inReach r hmem).1
      unfold State.distanceTo at hfar hreach ⊢
      have hkept : earlier r.dueCycle (s.ct.cycle + 1 + o.slip) = false := by
        rw [hcq] at hr
        split at hr
        · next hzero =>
          have hzero' : s.ct.cycle + 1 + o.slip = s.ct.cycle + 1 := by rw [hzero]; exact BitVec.add_zero _
          rw [hzero']
          exact earlier_next hfar hreach
        · rw [← hnumber]
          simpa using (List.mem_filter.1 hr).2
      rw [hct, ← distance_advance hfar hreach hslip hkept]
      show distance o.number r.dueCycle + _ = _
      rw [hnumber]
  have hentry : ∀ e ∈ t.ob.entries, e ∈ s.ob.entries ∧ ∀ d, e.send = some d → later d.deadline o.number = true := by
    intro x hx
    rw [hob, sweep_fst] at hx
    obtain ⟨e, he, hxe⟩ := List.mem_filterMap.1 hx
    simp only [Option.ite_none_right_eq_some, Option.some.injEq] at hxe
    obtain ⟨hopen, rfl⟩ := hxe
    rw [State.Leads.atDeadline_fst]
    refine ⟨he, fun d hd => ?_⟩
    by_contra hl
    simp [OutEntry.atDeadline, hd, hl] at hopen
  have htimely : ∀ e ∈ t.ob.entries, e.Timely s.slots s.window o.number := fun e he => by
    obtain ⟨hmem, hlater⟩ := hentry e he
    obtain ⟨htemplate, hsent⟩ := h.timely hmem
    refine ⟨htemplate, fun d hd => ?_⟩
    obtain ⟨hage, hdeadline, hbefore⟩ := hsent d hd
    rcases ho with ⟨-, hsend⟩ | ⟨hnumber, hslip⟩
    · simp [hsend e hmem] at hd
    · refine ⟨?_, hdeadline, hlater d hd⟩
      have hafter := hlater d hd
      rw [hdeadline] at hbefore hafter
      rw [hnumber] at hafter ⊢
      exact age_advance (h.patience_le e) hage hbefore hslip hafter
  exact {
    images := by rw [himage]; exact h.images
    configured := fun _ => by
      rw [himage]
      refine h.configured ?_
      rcases hs with hs | hs
      · simp [hs]
      · exact StationState.ne_config_of_cyclesRun hs
    standing := fun hr => by simp [hrun] at hr
    inReach := fun r hr => by
      obtain ⟨hreach, hdue⟩ := h.inReach r (hsub.subset hr)
      have hr' := hnear r hr
      exact ⟨by omega, hslots ▸ hdue⟩
    unfired := fun r _ _ => by rw [hct]; exact ⟨rfl, nofun⟩
    ordered := (h.ordered.sublist hsub).imp_of_mem fun {r q} hr hq hrq => by
      have hr' := hnear r hr
      have hq' := hnear q hq
      omega
    observing := fun hp => by rw [hct] at hp; cases hp
    proposing := fun _ hp => by rw [hct] at hp; cases hp
    settled := fun _ _ o' ho' => by rw [hct] at ho'; cases ho'
    settling := fun hp => by rw [hct] at hp; cases hp
    sending := fun hf => absurd (hfb.trans (h.transmission_none (.inl (by simp [hphase])))) hf
    items := fun f hf => by
      rw [hfb, h.transmission_none (.inl (by simp [hphase]))] at hf
      cases hf
    templates := fun e he => by rw [hslots]; exact (htimely e he).template
    sent := fun e he => by
      rw [hct, hwindow]
      exact (htimely e he).sent
    bindings := fun i b hb => h.bindings i b (by cases i <;> simpa [State.trigger, h0, h1] using hb)
    resting := fun hr => by simp [hrun] at hr }

theorem endShape (h : s.DueLawful) (hs : s.sc.state = .listening ∨ s.sc.state.cyclesRun = true)
    (hphase : s.ct.phase = .opening) {o : Opening} (ho : s.ct.opening = some o) (hstage : o.stage = .shape)
    (shape : Byte) : (s.endShape o shape).DueLawful := by
  have hconfig : s.sc.state ≠ .config := by
    rcases hs with hs | hs
    · simp [hs]
    · exact StationState.ne_config_of_cyclesRun hs
  unfold State.endShape
  split
  · have hcounted : (if o.numberDamaged then s.countDamagedOpening else s).DueLawful := by
      split
      · exact h.counters _
      · exact h
    refine hcounted.enterHalted ?_ _
    split <;> exact hconfig
  · split
    · obtain ⟨hct, hcq, hob, hfb, h0, h1, himage⟩ :=
        finishOpening_parts (s.resync .backward (.strayOpening .backward s.ct.cycle (some o.number))) o
      refine h.cleared hconfig (himage.trans rfl) (h0.trans rfl) (h1.trans rfl) ?_ (hob.trans rfl) (hfb.trans rfl) ?_ ?_
      · rw [hcq]
        split <;> rfl
      · rw [hct]
        exact fun _ _ => ⟨nofun, rfl⟩
      · rw [hct]
        nofun
    · next hback =>
      refine h.finishOpening hs hphase ?_
      by_cases hr : s.ct.role = .participant
      · rcases hs with hs | hrun
        · have hrun : s.sc.state.cyclesRun = false := by rw [hs]; rfl
          exact .inl ⟨h.standing hrun, fun e he => by rw [h.resting hrun] at he; cases he⟩
        · exact .inr (h.settled hrun hr o ho hstage (by simpa using hback))
      · exact .inl (h.observing hphase hr)

theorem damageOpening (h : s.DueLawful) : s.damageOpening.DueLawful := by
  have hagain : s.sc.state = .listening ∧ s.ct.role = .observer → s.listenAgain.DueLawful := fun ⟨hl, _⟩ =>
    (h.standingBy (ct := s.ct.wait s.listenTime) (lc := s.lc) (by rw [hl]; rfl) (by simp [hl]) nofun).counters _
  unfold State.damageOpening
  split
  · split
    · exact h
    · next o ho =>
      split
      · exact h
      · next hstage =>
        split
        · next hl => exact hagain hl
        · refine h.reopen (p := s.ct.position) (lc := s.lc) fun _ _ hshape => ?_
          rw [show o.stage = .shape from hshape] at hstage
          cases hstage
      · next hstage =>
        split
        · next hl => exact hagain hl
        · exact h.reopen (p := s.ct.position) (lc := s.lc) fun hrun hr _ hback => h.settled hrun hr o ho hstage hback
  · exact h

theorem recognizePulse (h : s.DueLawful) (run : Nat) (inWindow : Bool) : (s.recognizePulse run inWindow).DueLawful := by
  unfold State.recognizePulse
  split
  · exact h
  · split
    · next hw => exact h.standingBy (by rw [hw.1]; rfl) (by simp [hw.1]) fun _ => ⟨_, rfl⟩
    · split
      · next hstray =>
        have hrun : s.sc.state.cyclesRun = true := (Bool.and_eq_true_iff.1 hstray.1).1
        exact h.cleared (t := { s.strayPulse run with lc := (s.strayPulse run).lc.runEnd })
          (StationState.ne_config_of_cyclesRun hrun) rfl rfl rfl rfl rfl rfl nofun fun _ => ⟨_, rfl⟩
      · split
        · exact h.same rfl rfl rfl rfl rfl rfl rfl rfl
        · exact h

/-! ## The slots (R3, R67, R107) -/

/-- R92: the lead that an entry is sent with is in range. -/
theorem cueItem_lead (h : s.DueLawful) {e : OutEntry} (he : e ∈ s.ob.entries) {item : TxItem}
    (hi : e.cueItem s.ct.cycle = some item) : item.LeadInRange := by
  obtain ⟨htemplate, hsent⟩ := h.timely he
  rintro n retry lead contents rfl
  unfold OutEntry.cueItem OutEntry.due at hi
  cases hk : e.kind with
  | cancel => simp [hk] at hi
  | cue t pending =>
    have ht : e.template = some t := by rw [OutEntry.template, hk]
    obtain ⟨hlead, hmax, -⟩ := htemplate t ht
    cases hd : e.send with
    | none =>
      simp only [hk, hd, Option.some.injEq, TxItem.cue.injEq] at hi
      obtain ⟨-, -, rfl, -⟩ := hi
      exact ⟨hlead, hmax⟩
    | some d =>
      simp only [hk, hd, Option.some.injEq, TxItem.cue.injEq] at hi
      obtain ⟨-, -, rfl, -⟩ := hi
      obtain ⟨hage, hdeadline, hlater⟩ := hsent d hd
      have hpatience : e.patience s.window ≤ t.lead := by
        unfold OutEntry.patience
        rw [ht]
        exact Nat.min_le_right ..
      exact retry_lead (h.patience_le e) hpatience hmax hage (hdeadline ▸ hlater)

/-- R109: the items of a slot frame carry leads in range. -/
theorem frameItems_lead (h : s.DueLawful) (slot : Nat) : ∀ i ∈ s.frameItems slot, i.LeadInRange := by
  have hcandidate : ∀ e ∈ s.frameCandidates, e ∈ s.ob.entries := fun e he => by
    unfold State.frameCandidates at he
    split at he
    · cases he
    · exact (List.mem_filter.1 he).1
  intro i hi
  simp only [State.frameItems, List.mem_append] at hi
  rcases hi with ((hrelease | hack) | hcancel) | hcue
  · unfold State.releaseItems at hrelease
    split at hrelease
    · rw [List.mem_singleton.1 hrelease]
      exact nofun
    · cases hrelease
  · obtain ⟨e, -, rfl⟩ := List.mem_map.1 hack
    exact nofun
  · obtain ⟨e, -, he⟩ := List.mem_filterMap.1 (List.mem_of_mem_take hcancel)
    unfold OutEntry.cancelItem at he
    split at he <;> cases he
    exact nofun
  · obtain ⟨e, he, hitem⟩ := List.mem_filterMap.1 (List.mem_of_mem_take hcue)
    exact h.cueItem_lead (hcandidate e he) hitem

/-- An own frame begins in the slot in progress. -/
theorem sends (h : s.DueLawful) (hin : s.InSlots) (hjudged : s.slot.judged = false) {f : TxFrame}
    (hitems : ∀ i ∈ f.items, i.LeadInRange) (staging : List Staged) (lc : LineController) :
    ({ s with fb := { staging := staging, transmission := some f }, lc := lc } : State).DueLawful :=
  { h with
    sending := fun _ => ⟨hin.1, hin.2, hjudged⟩
    items := fun f' hf n retry lead contents hi => by
      obtain rfl := Option.some.inj hf
      exact hitems _ hi n retry lead contents rfl }

theorem fixSlotFrame (h : s.DueLawful) (hin : s.InSlots) (hjudged : s.slot.judged = false) (slot : Nat) :
    (s.fixSlotFrame slot).DueLawful := by
  have hplaced : ({ s with ob := { s.ob with entries := s.ob.entries.map (OutEntry.placed (s.frameItems slot)) } } :
      State).DueLawful := by
    refine h.dwindle rfl rfl (.refl _) ⟨fun x hx => ?_⟩ rfl rfl rfl rfl
    obtain ⟨e, he, rfl⟩ := List.mem_map.1 hx
    refine ⟨e, he, ?_⟩
    unfold OutEntry.placed
    split <;> rfl
  exact hplaced.sends hin hjudged
    (f := { kind := .slot slot, cycleCheck := s.ct.cycle.setWidth 8, items := s.frameItems slot })
    (h.frameItems_lead slot) _ _

theorem claimPolicy (h : s.DueLawful) (hin : s.InSlots) (hjudged : s.slot.judged = false) :
    s.claimPolicy.1.DueLawful := by
  have htable : ∀ st : SlotTable, ({ s with st := st } : State).DueLawful := fun st =>
    h.same rfl rfl rfl rfl rfl rfl rfl rfl
  unfold State.claimPolicy
  extract_lets free armed s1
  have hs1 : s1.DueLawful ∧ s1.InSlots ∧ s1.slot.judged = false := by
    simp only [s1]
    split
    · exact ⟨h, hin, hjudged⟩
    · exact ⟨htable _, hin, hjudged⟩
  obtain ⟨hs1, hin1, hjudged1⟩ := hs1
  clear_value s1 free
  split
  · split
    · exact hs1.sends hin1 hjudged1 (List.forall_mem_nil _) s1.fb.staging _
    · split
      · exact htable _
      · exact h
  · exact hs1

/-- R67, R68: a slot begins, and what is due in it goes. -/
theorem slotBegins (h : s.DueLawful) (hslot : s.nextSlot = some slot) (hsc : t.sc = s.sc)
    (hct : t.ct = { s.ct with slotIndex := some slot, position := t.ct.position })
    (hcq : t.cq.records = s.cq.records.filter fun r => !r.dueAt s.ct.cycle slot) (hob : t.ob = s.ob)
    (h0 : t.trig0 = s.trig0) (h1 : t.trig1 = s.trig1) (hfb : t.fb = s.fb) (hjudged : t.slot.judged = false) :
    t.DueLawful := by
  obtain ⟨hrun, hphase, hplace⟩ := State.nextSlot_spec hslot
  have hslots : t.slots = s.slots := by unfold State.slots; rw [hsc]
  have hwindow : t.window = s.window := by unfold State.window; rw [hsc]
  have hcycle : t.ct.cycle = s.ct.cycle := by rw [hct]
  have hphase' : t.ct.phase = .slots := by rw [hct]; exact hphase
  have hdist : ∀ r, t.distanceTo r = s.distanceTo r := fun r => by unfold State.distanceTo; rw [hcycle]
  have hsub : t.cq.records.Sublist s.cq.records := by rw [hcq]; exact List.filter_sublist
  exact {
    images := by rw [hsc]; exact h.images
    configured := by rw [hsc]; exact h.configured
    standing := fun hr => by rw [hsc, hrun] at hr; cases hr
    inReach := fun r hr => by rw [hdist, hslots]; exact h.inReach r (hsub.subset hr)
    unfired := fun r hr hz => by
      rw [hdist] at hz
      refine ⟨hphase', fun k hk => ?_⟩
      rw [hct] at hk
      obtain rfl := Option.some.inj hk
      have hdue : r.dueSlot ≠ slot := fun heq => by
        rw [hcq] at hr
        have hnot := (List.mem_filter.1 hr).2
        have hcyc : r.dueCycle = s.ct.cycle := by
          unfold State.distanceTo distance at hz
          bv_omega
        simp [CueRecord.dueAt, heq, hcyc] at hnot
      have hbefore := (h.unfired r (hsub.subset hr) hz).2
      rcases hplace with ⟨-, rfl⟩ | ⟨j, hj, -, -, rfl⟩
      · omega
      · have hlt := hbefore j hj
        omega
    ordered := by simpa only [hdist] using h.ordered.sublist hsub
    observing := fun hp => by rw [hphase'] at hp; cases hp
    proposing := fun _ hp => by rw [hphase'] at hp; cases hp
    settled := by rw [hct, hsc]; exact h.settled
    settling := fun hp => by rw [hphase'] at hp; cases hp
    sending := fun _ => ⟨by rw [hsc]; exact hrun, hphase', hjudged⟩
    items := by rw [hfb]; exact h.items
    templates := by rw [hob, hslots]; exact h.templates
    sent := by rw [hob, hwindow, hcycle]; exact h.sent
    bindings := fun i b hb => h.bindings i b (by cases i <;> simpa [State.trigger, h0, h1] using hb)
    resting := fun hr => by rw [hsc, hrun] at hr; cases hr }

theorem beginSlot (h : s.DueLawful) (hslot : s.nextSlot = some slot) : (s.beginSlot slot).DueLawful := by
  obtain ⟨hrun, hphase, -⟩ := State.nextSlot_spec hslot
  unfold State.beginSlot
  extract_lets timer blank t work claim reported
  have hwork : work.1.DueLawful := h.slotBegins hslot rfl rfl rfl rfl rfl rfl rfl rfl
  have hin : work.1.InSlots := ⟨hrun, hphase⟩
  split
  · exact (hwork.claimPolicy hin rfl).offersUnordered _ _
  · split
    · exact (hwork.offers _).fixSlotFrame hin rfl slot
    · exact hwork.offers _

theorem endSlot (h : s.DueLawful) (hfb : s.fb.transmission = none) (slot : Nat) (late : Option (List Byte)) :
    (s.endSlot slot late).DueLawful := by
  have hmoved : ∀ p, ({ s with ct := { s.ct with position := p } } : State).DueLawful := fun _ => { h with }
  have hquiet : ∀ p, (({ s with ct := { s.ct with position := p }, lc := s.lc.endReception } :
      State).judge).DueLawful := fun p => ((hmoved p).report hfb s.slot _).judge hfb
  unfold State.endSlot
  dsimp only
  split
  · split
    · exact (hmoved (some (s.slotStart slot + frameRegion s.payload))).report hfb _ _
    · exact hquiet _
  · exact hquiet _

/-! ## The commands -/

theorem leaveLine (h : s.DueLawful) (ht : s.sc.state.talking = true) : s.leaveLine.DueLawful := by
  have hrun := StationState.cyclesRun_of_talking ht
  unfold State.leaveLine
  extract_lets sc t
  have hleaving : t.DueLawful := by
    refine h.wane { image := rfl, run := hrun.symm ▸ rfl, config := fun _ => StationState.ne_config_of_cyclesRun hrun,
                    ct := rfl, records := .refl _, entries := .same rfl, trig0 := rfl, trig1 := rfl }
      fun _ => ⟨rfl, rfl⟩
  have hswept : (t.sweepOutbox (OutEntry.atLeave t.ob)).DueLawful := hleaving.sweepKeeping fun _ => rfl
  exact hswept.wane (.shift (.checkCounts _) (by simp) (by simp) (.same (by simp)) (by simp) (by simp))
    fun _ => ⟨(State.Cedes.checkCounts _).transmission, by simp⟩

/-- R86, R87: the entry created carries its template. -/
theorem mem_submit_timely {o : Outbox} {x : CueTemplate} {source : Source} {slots : Nat} (hx : x.InRange slots) :
    ∀ y ∈ (o.submit x source).entries, (∃ e ∈ o.entries, y.timing = e.timing) ∨
      (y.send = none ∧ ∀ t, y.template = some t → t.InRange slots) := by
  intro y hy
  rcases List.mem_append.1 hy with hy | hy
  · exact .inl ⟨y, hy, rfl⟩
  · rw [List.mem_singleton.1 hy]
    exact .inr ⟨rfl, fun t ht => Option.some.inj ht ▸ hx⟩

theorem timing_pend {o : Outbox} {n : Serial} : ∀ x ∈ (o.pend n).entries,
    (∃ e ∈ o.entries, x.timing = e.timing) ∨ (x.send = none ∧ x.template = none) := by
  intro x hx
  rcases List.mem_append.1 hx with hx | hx
  · obtain ⟨e, he, rfl⟩ := List.mem_map.1 hx
    refine .inl ⟨e, he, ?_⟩
    split
    · next hk =>
      split
      · simp [OutEntry.timing, OutEntry.template, hk]
      · rfl
    · rfl
  · rw [List.mem_singleton.1 hx]
    exact .inr ⟨rfl, rfl⟩

theorem timing_addCancel {o : Outbox} {n : Serial} {self : Option Verdict} : ∀ x ∈ (o.addCancel n self).entries,
    (∃ e ∈ o.entries, x.timing = e.timing) ∨ (x.send = none ∧ x.template = none) := by
  intro x hx
  rcases List.mem_append.1 hx with hx | hx
  · exact .inl ⟨x, hx, rfl⟩
  · rw [List.mem_singleton.1 hx]
    exact .inr ⟨rfl, rfl⟩

/-- R89, R90: a CANCEL entry created. -/
theorem cancels (h : s.DueLawful) (hrun : s.sc.state.cyclesRun = true) {ob : Outbox}
    (hob : ∀ x ∈ ob.entries, (∃ e ∈ s.ob.entries, x.timing = e.timing) ∨ (x.send = none ∧ x.template = none)) :
    ({ s with ob := ob } : State).DueLawful :=
  h.created hrun fun x hx => (hob x hx).imp_right fun ⟨hsend, ht⟩ => ⟨hsend, fun t hxt => by simp [ht] at hxt⟩

/-- With an empty outbox a station that does not talk has nothing to cancel. -/
theorem cancelSerial_resting (hob : s.ob.entries = []) (ht : s.sc.state.talking = false) (n : Serial) :
    (s.cancelSerial n).2 = s := by
  simp [State.cancelSerial, Outbox.find, Outbox.cancelOpen, hob, ht]

theorem cancelSerial (h : s.DueLawful) (n : Serial) : (s.cancelSerial n).2.DueLawful := by
  by_cases hrun : s.sc.state.cyclesRun = true
  · rcases s.cancelSerial_cases n with heq | heq | ⟨-, -, heq | ⟨-, heq⟩⟩ <;> rw [heq]
    · exact h.sweepKeeping (timing_onEntry fun _ => rfl)
    · exact h
    · exact h.cancels hrun timing_pend
    · unfold State.cancelSent
      dsimp only
      split
      · exact (h.cancels hrun timing_addCancel).queue (s.cq.remove_sublist ..)
      · exact h.cancels hrun timing_addCancel
  · have ht : s.sc.state.talking = false := by
      by_contra ht
      exact hrun (StationState.cyclesRun_of_talking (by simpa using ht))
    rw [cancelSerial_resting (h.resting (by simpa using hrun)) ht]
    exact h

/-- The inputs with a binding whose lead is in range. -/
theorem setTrigger (h : s.DueLawful) (i : TrigInput) {x : TriggerState}
    (hx : ∀ b, x.binding = some b → 1 ≤ b.template.lead ∧ b.template.lead ≤ 1023) : (s.setTrigger i x).DueLawful := by
  have hbindings : ∀ j b, ((s.setTrigger i x).trigger j).binding = some b →
      1 ≤ b.template.lead ∧ b.template.lead ≤ 1023 := fun j b hb => by
    cases i <;> cases j
    · exact hx b hb
    · exact h.bindings .trig1 b hb
    · exact h.bindings .trig0 b hb
    · exact hx b hb
  cases i <;> exact { h with bindings := hbindings }

theorem present (h : s.DueLawful) (i : TrigInput) (edge : Edge) {x : CueTemplate}
    (hx : 1 ≤ x.lead ∧ x.lead ≤ 1023) : (s.present i edge x).DueLawful := by
  unfold State.present
  split
  · exact h.offers [_]
  · next hnone =>
    unfold State.dropReason at hnone
    split_ifs at hnone with htalk _ hslot
    have hrun := StationState.cyclesRun_of_talking (by simpa using htalk)
    have hcreated := h.created (ob := s.ob.submit x (.trigger i)) hrun
      (mem_submit_timely ⟨hx.1, hx.2, Nat.not_le.1 hslot⟩)
    exact (hcreated.setTrigger i (x := { s.trigger i with lastSerial := some s.ob.nextSerial }) fun b hb =>
      h.bindings i b hb).offers [_]

theorem edge (h : s.DueLawful) (i : TrigInput) : (s.edge i).DueLawful := by
  have hlevel := h.setTrigger i (x := { s.trigger i with level := opposite (s.trigger i).level }) fun b hb =>
    h.bindings i b hb
  unfold State.edge
  dsimp only
  split
  · exact hlevel
  · next b hb =>
    split
    · exact hlevel.present i _ (h.bindings i b hb)
    · exact hlevel

end State.DueLawful

/-! ## Every row, every step -/

/-- R42: every row keeps the due positions. -/
theorem rowEffects_due (c : Instr) : RowEffects c fun s t => s.TimerLawful → s.DueLawful → t.DueLawful where
  reset _ s reason _ _ := .ofEmpty (t := s.resetCondition reason) (fun _ him => by cases him) (fun hs => absurd rfl hs)
    rfl rfl rfl (fun hr => by cases hr) (fun hp => by cases hp) fun i b hb => by cases i <;> cases hb
  configure _ s p im hc him _ h := by
    have hrun : s.sc.state.cyclesRun = false := by rw [hc]; rfl
    exact .ofEmpty (t := s.configureWith im) (fun im' him' => by
        obtain rfl := Option.some.inj him'
        exact Image.valid_of_ofBytes him) (fun _ => rfl)
      (h.standing hrun) (h.resting hrun) (h.transmission_none (.inr hrun))
      (fun hr => by simp [show s.sc.state.cyclesRun = true from hr] at hrun) h.settling h.bindings
  start s im hc him _ h := by
    have hrun : s.sc.state.cyclesRun = false := by rw [hc]; rfl
    exact .ofEmpty (t := s.startUp im) h.images (fun _ => by simp [State.startUp, State.changeState, State.offer, him])
      (h.standing hrun) (h.resting hrun) (h.transmission_none (.inr hrun)) nofun nofun h.bindings
  leave _ ht _ h := h.leaveLine ht
  join s hq _ h := h.wane
    { image := rfl, run := by rw [hq]; rfl, config := fun _ => by simp [hq], ct := rfl, records := .refl _,
      entries := .same rfl, trig0 := rfl, trig1 := rfl } fun _ => ⟨rfl, rfl⟩
  submit s p t ht hp _ _ h := h.created (StationState.cyclesRun_of_talking ht) (State.DueLawful.mem_submit_timely
    ⟨(CueTemplate.valid_of_ofBytes hp).lead.1, (CueTemplate.valid_of_ofBytes hp).lead.2,
      (CueTemplate.valid_of_ofBytes hp).dueSlot⟩)
  cancel _ n _ h := h.cancelSerial n
  takeEvents _ _ _ h := h.same rfl rfl rfl rfl rfl rfl rfl rfl
  zeroCounters _ _ h := h.counters _
  drive _ _ _ _ _ _ _ h := h.same rfl rfl rfl rfl rfl rfl rfl rfl
  bind _ _ i _ _ hp _ h := h.setTrigger i fun b hb => by
    obtain rfl := Option.some.inj hb
    exact (CueTemplate.valid_of_ofBytes hp).lead
  unbind _ i _ h := h.setTrigger i nofun
  edge _ i _ h := h.edge i
  period _ _ h := h.same rfl rfl rfl rfl rfl rfl rfl rfl
  expiry _ hl _ _ h := h.standingBy (by rw [hl]; rfl) (by simp [hl]) fun _ => ⟨_, rfl⟩
  opens s hw _ h := by
    simp only [State.windowOpen, Bool.and_eq_true, beq_iff_eq] at hw
    obtain ⟨⟨-, hslot⟩, hjudged⟩ := hw
    refine h.beginOpening hslot ?_ 0
    by_contra hf
    simp [(h.sending hf).2.2] at hjudged
  deferred s hl _ hslot _ h := by
    obtain ⟨-, -, -, -, -, hfb, -⟩ := State.listens_iff.1 hl
    have hshift : s.Shifts (s.countFormat.note .invalid).judge := (State.Shifts.judge _).after (by simp)
    have hslots : (s.countFormat.note .invalid).judge.slots = s.slots := by
      unfold State.slots
      rw [hshift.image]
    refine ((h.countFormat.note hfb _).judge hfb).beginOpening ?_ ((State.judge_transmission _).trans hfb) 10
    rw [hslots]
    simpa using hslot
  pulseRelease _ _ _ _ _ _ _ h := h.reopen fun _ _ hshape => by cases hshape
  noEcho _ _ _ hline _ _ _ _ h := (h.enterLineFault (StationState.ne_config_of_onLine hline) _).same
    rfl rfl rfl rfl rfl rfl rfl rfl
  pulse _ run inWindow _ h := h.recognizePulse run inWindow
  numberLoss s o _ _ _ hstage _ h := h.reopen (p := s.ct.position) fun _ _ hshape => by
    rw [show o.stage = .shape from hshape] at hstage
    cases hstage
  numberEnd _ o read mismatch _ hphase _ _ h := h.endNumberField hphase o read mismatch
  shapeEnd _ _ shape ho hphase hstage hs h := h.endShape (hs.states_of_opening hphase) hphase ho hstage shape
  damage _ _ h := h.damageOpening
  slotBegin _ _ hslot _ h := h.beginSlot hslot
  slotEnd _ slot late _ _ _ _ hfb _ h := h.endSlot hfb slot late
  frameDone _ _ slot hf _ _ h := h.frameDone hf slot
  frameBroken _ f slot _ _ _ h := h.frameBroken slot f
  frameBeaten _ f slot _ _ _ h := h.frameBeaten slot f
  claimBeaten s _ _ _ _ _ _ h := State.DueLawful.endFrame (s := s.countClaimLoss) (h.counters _) _
  claimBroken s _ _ _ _ _ h := State.DueLawful.endFrame (s := s.countOwnFailure) (h.counters _) _
  claimDone _ _ _ _ _ _ h := h.endFrame _
  received _ bs framingError hl _ h := h.receive hl bs framingError
  lostAhead s hl _ h := by
    have hfb : s.fb.transmission = none := by
      simp only [State.listensAhead, Bool.and_eq_true, Option.isNone_iff_eq_none] at hl
      exact hl.1.2
    exact h.countFormat.report hfb _ _
  frameLost _ hl _ h := h.frameLost (State.listens_iff.1 hl).2.2.2.2.2.1
  stray _ _ _ h := h.countFormat
  stuck _ hline _ h :=
    (h.enterLineFault (StationState.ne_config_of_onLine hline) _).same rfl rfl rfl rfl rfl rfl rfl rfl
  stuckAgain _ _ _ h := h.same rfl rfl rfl rfl rfl rfl rfl rfl
  restored s hs _ h := by
    have hrun : s.sc.state.cyclesRun = false := by rw [hs]; rfl
    exact h.cleared (by simp [hs]) rfl rfl rfl (h.standing hrun) (h.resting hrun)
      (h.transmission_none (.inr hrun)) nofun nofun
  fallingEdge _ _ _ h := h.same rfl rfl rfl rfl rfl rfl rfl rfl

/-- Settles O59: every row keeps the due positions from a lawful timer, and so do the bit time and the waiting of
commands. -/
theorem stepKeepsDuePositions : Obligations.StepKeepsDuePositions := by
  intro s t hst ht hs
  unfold step at hst
  split at hst
  · cases hst
    exact { hs with settling := hs.settling }
  · exact (rowEffects_due _).exec
      { refl := fun _ _ h => h
        before := fun _ _ _ h ht hs => h (ht.congr rfl rfl) (hs.same rfl rfl rfl rfl rfl rfl rfl rfl)
        port := fun _ _ _ h ht hs => (h ht hs).same rfl rfl rfl rfl rfl rfl rfl rfl
        hold := fun _ _ _ h ht hs => (h ht hs).same rfl rfl rfl rfl rfl rfl rfl rfl
        pins := fun _ _ _ _ h ht hs => (h ht hs).same rfl rfl rfl rfl rfl rfl rfl rfl } hst (ht.congr rfl rfl)
      (hs.same rfl rfl rfl rfl rfl rfl rfl rfl)

end Sys2Proof.Machine
end
